-- ==== Sys2Proof/Word.lean ====
section
/-!
DEFINITION. Bytes, the Digest Variant and the word width it selects (spec 00_scope.md rule R8, notation of section 5).
-/

namespace Sys2Proof

/-- A byte is 8 bits (00_scope.md section 5). -/
abbrev Byte := BitVec 8

/-- The Digest Variant: `short` is SHA-256, `long` is SHA-512; there is no third value (R2, R8, R71). -/
inductive Variant where
  | short
  | long
  deriving DecidableEq, Repr

/-- `WW(v)`: the word width in bits (R8). -/
abbrev Variant.ww : Variant → Nat
  | .short => 32
  | .long => 64

/-- A word of variant `v`: an unsigned value of `WW(v)` bits, so `+` on it is the addition modulo `2^WW(v)` of R11. -/
abbrev Word (v : Variant) := BitVec v.ww

/-- One storage cell of the data registers. The core takes the variant with each command (R3), so a cell is as
wide as the widest word; a Short word occupies bits 31:0 (log entry 2). -/
abbrev Slot := BitVec 64

end Sys2Proof
end

