-- ==== Sys2Proof/Machine/State.lean ====
section
/-!
DEFINITION. The state of the core, its reset value, and the reasons a step can stop (10_state.md rules R20 to R46).
-/

namespace Sys2Proof.Machine

/-- Byte-addressed storage: `MSG` and `DIG` (20_memory.md rules R50, R59). A list of (address, byte) cells; an
address that is not listed holds NO VALUE (log entry 6). -/
abbrev Memory := List Host.Cell

/-- The canonical form: addresses strictly rising. An unlisted address has no value, so no listed byte can equal
what it would read as. -/
abbrev Memory.wf (m : Memory) : Prop := m.Pairwise (fun p q => p.1 < q.1)

/-- The sequencer's phases (table of R34); an enumeration, so the unused codes cannot be written down (R81). -/
inductive Phase where
  | idle
  | init
  | segFill
  | segRoom
  | segSynth
  | expLoad
  | expMix
  | rndSeed
  | rndStep
  | accAdd
  | serOut
  | done
  deriving DecidableEq, Repr

/-- Eight named values: the working registers `a` to `h` (R25). -/
structure Oct (α : Type) where
  a : α
  b : α
  c : α
  d : α
  e : α
  f : α
  g : α
  h : α
  deriving DecidableEq, Repr

/-- The same function on each of the eight values. -/
def Oct.map {α β : Type} (f : α → β) (o : Oct α) : Oct β :=
  { a := f o.a, b := f o.b, c := f o.c, d := f o.d, e := f o.e, f := f o.f, g := f o.g, h := f o.h }

/-- Every piece of state of R20, under the spec's own names, and the two inputs the host holds at the core's
boundary (`msg`, `presented`). -/
structure State where
  /-- The held command word, 65 bits (R46). -/
  cmd : BitVec 65
  /-- The Digest Variant of the computation in progress (R21). -/
  variant : Variant
  /-- The `message_length` operand, `LEN_W = 64` bits (R22). -/
  messageLength : BitVec 64
  /-- The effective message length after the clamp (R23). -/
  L : BitVec 64
  /-- The running state `H[0..7]` (R24). -/
  H : Vector Slot 8
  /-- The working registers `a` to `h` (R25). -/
  regs : Oct Slot
  /-- The block buffer `blk[0..BS(v)-1]` (R26). -/
  blk : Vector Byte 128
  /-- The schedule array `W[0..NR(v)-1]` (R27). -/
  W : Vector Slot 80
  /-- The message cursor (R32). -/
  processed : BitVec 64
  /-- The word and round counter, 7 bits (R33). -/
  t : BitVec 7
  /-- The sequencer's state (R34). -/
  phase : Phase
  /-- The block in `blk` is the terminal block (R35). -/
  terminal : Bool
  /-- The result of the last room decision (R36). -/
  room : Bool
  /-- A synthetic block is to follow (R37). -/
  synthPending : Bool
  /-- The digest output, the space `DIG` (R39, R59). -/
  digestOut : Memory
  /-- The message bytes, the space `MSG`. They belong to the caller (R20, R50): no operation writes them. -/
  msg : Memory
  /-- The command word the host presents at the boundary and the core has not accepted yet (R137, R172): the
  model's own field, an input. -/
  presented : Option (BitVec 65)
  deriving DecidableEq, Repr

/-- The state after hardware reset: `IDLE`, so `done = 0` and `busy = 0` (R44, R170). The spec gives every other
register no value; each holds zero here (Short for `variant`), a value the MODEL names (log entry 1), and no run
from `IDLE` reads it before writing it (R45). `DIG` holds no byte, no message is loaded, no command is presented. -/
def State.reset : State :=
  { cmd := 0
    variant := .short
    messageLength := 0
    L := 0
    H := Vector.replicate 8 0
    regs := { a := 0, b := 0, c := 0, d := 0, e := 0, f := 0, g := 0, h := 0 }
    blk := Vector.replicate 128 0
    W := Vector.replicate 80 0
    processed := 0
    t := 0
    phase := .idle
    terminal := false
    room := false
    synthPending := false
    digestOut := []
    msg := []
    presented := none }

/-- The model's stuck states. THE HARDWARE RAISES NOTHING (R155): each names a case for which the spec states that it
cannot occur and gives no effect. The invariant `Safety.Inv` rules all of them out, and no run from reset meets one. -/
inductive Fault where
  /-- Raised by EXP.MIX when `t` is outside `16 .. NR(v)-1`, against the precondition of R106. Safe: the model stops
  where the spec says nothing. -/
  | scheduleIndexOutOfRange
  /-- Raised by RND.STEP when `t` is outside `0 .. NR(v)-1`, against the precondition of R116. Safe. -/
  | roundIndexOutOfRange
  /-- Raised by ACC.ADD when the cursor would pass `2^64 - 1`: "it never wraps and no wrap behaviour exists" (R32).
  Safe. -/
  | cursorOverflow
  deriving DecidableEq, Repr

/-- What the model refuses to answer. -/
inductive Refusal where
  /-- An instruction that has no meaning yet, by its mnemonic: raised by `exec` only. Safe. -/
  | notModelled (mnemonic : String)
  /-- Raised by DIGEST.S and DIGEST.L while `busy = 1`: the spec gives a command presented then no meaning, and a
  model refuses it (R143). Safe. -/
  | commandWhileBusy
  /-- Raised by SEG.FILL when the host has not made a message byte below `L` available, against its duty (R172
  item 1); a model must refuse, not answer, such a read (R67). Safe. -/
  | messageByteAbsent
  /-- Raised by the core's read of the message (`readMessage`) at an index outside `0 .. L-1`: a model must refuse, not
  answer, such a read (R67). No operation makes one (R51), so no step answers with it. Safe. -/
  | messageReadBeyondLength
  /-- Raised by the host's own act of loading a message (`hostLoadMessage`), never by a step, while `busy = 1`: a
  computation whose message changes has no meaning (R177). Safe. -/
  | messageChangedWhileBusy
  deriving DecidableEq, Repr

/-- The outcome of one step of this machine. -/
abbrev Result := Host.Outcome State Fault Refusal

end Sys2Proof.Machine
end

