-- ==== Sys2Proof/Machine/Ops.lean ====
section
/-!
DEFINITION. The named operations over the registers and the two byte spaces (10_state.md, 20_memory.md). THERE IS NO
OPERATION FOR TAKING AN EXCEPTION AND NONE FOR RETURNING FROM ONE: the hardware raises no exception (R155), takes no
interrupt (R157), has no trap entry (R159) and no trap return (R160).
-/

namespace Sys2Proof.Machine

/-- `MemRead(space, a, 1)`: the byte at address `a`, or no value (R50, R52; log entry 6). It is the
plain look-up in either space; the core reads `MSG` through `readMessage`, which bounds it by `L`. -/
def Memory.read (m : Memory) (a : Nat) : Option Byte :=
  match m with
  | [] => none
  | c :: rest => if c.1 = a then some c.2 else Memory.read rest a

/-- `MemRead(MSG, idx, 1)` by the core, the only way an operation reads the message: the byte at `idx`, for `idx` in
`0 .. L-1` only. At and beyond `L` the read is refused, not answered, even where the caller's memory holds a byte there
(R51, R67); below `L` it is refused where the host has not made the byte available (R172 item 1). -/
def readMessage (s : State) (idx : Nat) : Except Refusal Byte :=
  if s.L.toNat ≤ idx then .error .messageReadBeyondLength
  else
    match s.msg.read idx with
    | some b => .ok b
    | none => .error .messageByteAbsent

/-- `MemWrite(space, a, 1, b)`: the byte at address `a` becomes `b` (R59). It keeps the canonical form. -/
def Memory.write (m : Memory) (a : Nat) (b : Byte) : Memory :=
  match m with
  | [] => [(a, b)]
  | c :: rest =>
    if a < c.1 then (a, b) :: c :: rest
    else if a = c.1 then (a, b) :: rest
    else c :: Memory.write rest a b

/-- Writes of bytes `0 .. n-1`, byte `i` being `f i`, in increasing order. -/
def Memory.writeUpTo (m : Memory) (n : Nat) (f : Nat → Byte) : Memory :=
  (List.range n).foldl (fun acc i => acc.write i (f i)) m

/-- The space that holds exactly the bytes of a list from address `k` on: how the host lays out a message (R50). -/
def Memory.ofBytes (k : Nat) (bs : List Byte) : Memory :=
  match bs with
  | [] => []
  | b :: rest => (k, b) :: Memory.ofBytes (k + 1) rest

/-- Write `cmd`. -/
def State.setCmd (s : State) (x : BitVec 65) : State := { s with cmd := x }

/-- Write `variant`. -/
def State.setVariant (s : State) (x : Variant) : State := { s with variant := x }

/-- Write `messageLength`. -/
def State.setMessageLength (s : State) (x : BitVec 64) : State := { s with messageLength := x }

/-- Write `L`. -/
def State.setL (s : State) (x : BitVec 64) : State := { s with L := x }

/-- Write `H`. -/
def State.setH (s : State) (x : Vector Slot 8) : State := { s with H := x }

/-- Write `regs`. -/
def State.setRegs (s : State) (x : Oct Slot) : State := { s with regs := x }

/-- Write `blk`. -/
def State.setBlk (s : State) (x : Vector Byte 128) : State := { s with blk := x }

/-- Write `W`. -/
def State.setW (s : State) (x : Vector Slot 80) : State := { s with W := x }

/-- Write `processed`. -/
def State.setProcessed (s : State) (x : BitVec 64) : State := { s with processed := x }

/-- Write `t`. -/
def State.setT (s : State) (x : BitVec 7) : State := { s with t := x }

/-- Write `phase`. -/
def State.setPhase (s : State) (x : Phase) : State := { s with phase := x }

/-- Write `terminal`. -/
def State.setTerminal (s : State) (x : Bool) : State := { s with terminal := x }

/-- Write `room`. -/
def State.setRoom (s : State) (x : Bool) : State := { s with room := x }

/-- Write `synthPending`. -/
def State.setSynthPending (s : State) (x : Bool) : State := { s with synthPending := x }

/-- Write `digestOut`. -/
def State.setDigestOut (s : State) (x : Memory) : State := { s with digestOut := x }

/-- Write `msg`. -/
def State.setMsg (s : State) (x : Memory) : State := { s with msg := x }

/-- Write `presented`. -/
def State.setPresented (s : State) (x : Option (BitVec 65)) : State := { s with presented := x }

end Sys2Proof.Machine
end

