-- ==== Sys2Proof/Machine/Params.lean ====
section
/-!
DEFINITION. The parameters the Digest Variant selects (table of 00_scope.md rule R8).
-/

namespace Sys2Proof

/-- `WB(v)`: bytes per word. -/
def Variant.wb : Variant → Nat
  | .short => 4
  | .long => 8

/-- `NR(v)`: rounds per block, also the schedule length in words. -/
def Variant.nr : Variant → Nat
  | .short => 64
  | .long => 80

/-- `BS(v)`: block size in bytes. -/
def Variant.bs : Variant → Nat
  | .short => 64
  | .long => 128

/-- `DS(v)`: digest size in bytes. -/
def Variant.ds : Variant → Nat
  | .short => 32
  | .long => 64

/-- `LF(v)`: length-field size in bytes, which decides room and places the trailer (R8, 90_conflicts.md C4). -/
def Variant.lf : Variant → Nat
  | .short => 8
  | .long => 16

/-- `LW(v)`: bytes of the length field that carry the bit length; the rest are zero (R8, R76). -/
def Variant.lw : Variant → Nat
  | .short => 8
  | .long => 8

/-- Three rotate or shift amounts (R79). -/
structure Amounts where
  p : Nat
  q : Nat
  r : Nat
  deriving DecidableEq, Repr

/-- `s0(v)`: rotate, rotate, shift amounts of σ0 (R8, R79). -/
def Variant.s0 : Variant → Amounts
  | .short => { p := 7, q := 18, r := 3 }
  | .long => { p := 1, q := 8, r := 7 }

/-- `s1(v)`: rotate, rotate, shift amounts of σ1 (R8, R79). -/
def Variant.s1 : Variant → Amounts
  | .short => { p := 17, q := 19, r := 10 }
  | .long => { p := 19, q := 61, r := 6 }

/-- `S0(v)`: three rotate amounts of Σ0 (R8, R79). -/
def Variant.bigS0 : Variant → Amounts
  | .short => { p := 2, q := 13, r := 22 }
  | .long => { p := 28, q := 34, r := 39 }

/-- `S1(v)`: three rotate amounts of Σ1 (R8, R79). -/
def Variant.bigS1 : Variant → Amounts
  | .short => { p := 6, q := 11, r := 25 }
  | .long => { p := 14, q := 18, r := 41 }

end Sys2Proof
end

