-- ==== Sys2Proof/Machine/Flags.lean ====
section
/-!
DEFINITION. Every flag computation of the spec: the status flags `done` and `busy` (R38) and the room decision (R91). The
hardware has no condition codes: no operation of the data path sets a carry, overflow, zero or sign flag (R38, R11).
-/

namespace Sys2Proof.Machine

/-- `done` is 1 exactly when `phase = DONE` (R38). -/
def doneFlag (s : State) : Bool := s.phase == .done

/-- `busy` is 1 exactly when `phase` is neither `IDLE` nor `DONE` (R38). -/
def busyFlag (s : State) : Bool := s.phase != .idle && s.phase != .done

/-- `end = processed + B`, the index just past the block, on natural numbers (R91; 00_scope.md section 5). -/
def blockEnd (v : Variant) (s : State) : Nat := s.processed.toNat + v.bs

/-- `end >= L`: this is the last block consumed by the raw copy (R91, 92_eei_decisions.md D14). -/
def messageEnded (v : Variant) (s : State) : Bool := decide (s.L.toNat ≤ blockEnd v s)

/-- The room decision `(end >= L) and (end - L >= F + 1)` (R91). -/
def roomDecision (v : Variant) (s : State) : Bool :=
  messageEnded v s && decide (v.lf + 1 ≤ blockEnd v s - s.L.toNat)

end Sys2Proof.Machine
end

