-- ==== Sys2Proof/Machine/Operands.lean ====
section
/-!
DEFINITION. Reading and writing words in the storage cells, and the big-endian packing of bytes (00_scope.md section 5,
20_memory.md rules R55 to R58). The core has no operand fields (R72): every operand is state.
-/

namespace Sys2Proof.Machine

/-- The word of variant `v` a storage cell holds: its low `WW(v)` bits (log entry 2). -/
def fromSlot (v : Variant) (x : Slot) : Word v := x.setWidth v.ww

/-- The storage cell that holds a word: the bits above `WW(v)` are zero (log entry 2). -/
def toSlot (v : Variant) (x : Word v) : Slot := x.setWidth 64

/-- Element `i` of an array of words, `x[i]` (00_scope.md section 5). Every rule reads inside the array. -/
def wordAt (v : Variant) {n : Nat} (xs : Vector Slot n) (i : Nat) : Word v := fromSlot v (xs[i]?.getD 0)

/-- Element `i` of the block buffer. Every rule reads inside the buffer. -/
def byteAt (blk : Vector Byte 128) (i : Nat) : Byte := blk[i]?.getD 0

/-- `BE(f 0, ..., f (n-1))` as a `w`-bit value: the first byte is the most significant (00_scope.md section 5). -/
def packBE {w : Nat} (n : Nat) (f : Nat → Byte) : BitVec w :=
  (List.range n).foldl (fun acc j => (acc <<< 8) ||| (f j).setWidth w) 0

/-- Byte `j` of `BEbytes_n(x)`: `(x >> (8*(n-1-j))) mod 256` (00_scope.md section 5). -/
def byteBE {w : Nat} (n : Nat) (x : BitVec w) (j : Nat) : Byte := (x >>> (8 * (n - 1 - j))).setWidth 8

/-- The registers as words of variant `v`. -/
def regWords (v : Variant) (r : Oct Slot) : Oct (Word v) := r.map (fromSlot v)

/-- The registers that hold eight words of variant `v`. -/
def regSlots (v : Variant) (r : Oct (Word v)) : Oct Slot := r.map (toSlot v)

/-- The eight words of the running state as words of variant `v`, in the correspondence `a` = 0 to `h` = 7 of R25. -/
def stateWords (v : Variant) (H : Vector Slot 8) : Oct (Word v) :=
  { a := wordAt v H 0, b := wordAt v H 1, c := wordAt v H 2, d := wordAt v H 3
    e := wordAt v H 4, f := wordAt v H 5, g := wordAt v H 6, h := wordAt v H 7 }

/-- The running state that holds eight words of variant `v`, in the correspondence of R25. -/
def stateSlots (v : Variant) (o : Oct (Word v)) : Vector Slot 8 :=
  #v[toSlot v o.a, toSlot v o.b, toSlot v o.c, toSlot v o.d, toSlot v o.e, toSlot v o.f, toSlot v o.g, toSlot v o.h]

/-- The eight initial values as named values, from an indexed table. -/
def octOf {α : Type} (f : Nat → α) : Oct α :=
  { a := f 0, b := f 1, c := f 2, d := f 3, e := f 4, f := f 5, g := f 6, h := f 7 }

end Sys2Proof.Machine
end

