-- ==== Sys2Proof/Machine/Accumulator.lean ====
section
/-!
DEFINITION. The State Accumulator and serializer: ACC.ADD, SER.OUT (43_state_accumulator.md rules R130 to R134), with
the phase transition and the cursor advance of R139.
-/

namespace Sys2Proof.Machine

/-- Word by word sum of eight words, modulo the word width (R130). -/
def addWords (v : Variant) (x y : Oct (Word v)) : Oct (Word v) :=
  { a := x.a + y.a, b := x.b + y.b, c := x.c + y.c, d := x.d + y.d
    e := x.e + y.e, f := x.f + y.f, g := x.g + y.g, h := x.h + y.h }

/-- ACC.ADD: the registers are added into the running state (R130); then `SER_OUT` after the terminal block, else the
cursor advances by one block and the next block is built (R139). -/
def accAdd (v : Variant) (s : State) : Result :=
  let s1 := s.setH (stateSlots v (addWords v (stateWords v s.H) (regWords v s.regs)))
  if s.terminal then .next (s1.setPhase .serOut)
  else if blockEnd v s < 2 ^ 64 then
    .next ((s1.setProcessed (BitVec.ofNat 64 (blockEnd v s))).setPhase (if s.synthPending then .segSynth else .segFill))
  else .fault .cursorOverflow

/-- Byte `p` of the digest: byte `p mod WB(v)` of the big-endian form of word `p / WB(v)` (R58, R131). -/
def digestByte (v : Variant) (H : Vector Slot 8) (p : Nat) : Byte :=
  byteBE v.wb (wordAt v H (p / v.wb)) (p % v.wb)

/-- SER.OUT: the running state is serialized into the digest output (R131). -/
def serOut (v : Variant) (s : State) : Result :=
  .next ((s.setDigestOut (s.digestOut.writeUpTo v.ds (digestByte v s.H))).setPhase .done)

/-- ACC.ADD.S (R130). -/
def execAccAddS (s : State) : Result := accAdd .short s

/-- ACC.ADD.L (R130). -/
def execAccAddL (s : State) : Result := accAdd .long s

/-- SER.OUT.S (R131). -/
def execSerOutS (s : State) : Result := serOut .short s

/-- SER.OUT.L (R131). -/
def execSerOutL (s : State) : Result := serOut .long s

end Sys2Proof.Machine
end

