-- ==== Sys2Proof/Config.lean ====
section
/-!
DEFINITION. What an implementation fixes: the maximum message length `MAX_LEN`, which the spec leaves an open parameter
(00_scope.md rule R9; 92_eei_decisions.md D6, D7; 93_implementation_defined.md U1, U3).
-/

namespace Sys2Proof

/-- The range the spec allows for `MAX_LEN`: `1000000 <= MAX_LEN < 2^61` (R9). A configuration outside it is refused
(U3). -/
def Config.maxLenOk (n : Nat) : Bool := decide (1000000 ≤ n) && decide (n < 2 ^ 61)

/-- The implementation's choice of a maximum length, before the check of its range. FREE: nothing in Lean can
evaluate it (log entry 5). -/
opaque Config.maxLenChoice : Nat

/-- `MAX_LEN` in bytes: the implementation's choice where it is in the range of R9. A choice the check refuses is
replaced by the least admissible value, so `maxLen` ranges over exactly the values R9 allows (log entry 5). -/
def Config.maxLen : Nat := if Config.maxLenOk Config.maxLenChoice then Config.maxLenChoice else 1000000

end Sys2Proof
end

