-- ==== Sys2Proof/Syntax.lean ====
section
/-!
DEFINITION. The operations of the core: the two host commands and the twenty micro-operations, one constructor per row
of spec/opcode_table.json (30_encoding.md rules R70, R72, R80).
-/

namespace Sys2Proof

/-- Every operation of the core, in the order of the operation table (R80). A command carries its `message_length`;
a micro-operation has no operand fields (R72), and its suffix S or L is the variant it is performed for. -/
inductive Instr where
  | digestS (len : BitVec 64)
  | digestL (len : BitVec 64)
  | initS
  | initL
  | segFillS
  | segFillL
  | segRoomS
  | segRoomL
  | segSynthS
  | segSynthL
  | expLoadS
  | expLoadL
  | expMixS
  | expMixL
  | rndSeedS
  | rndSeedL
  | rndStepS
  | rndStepL
  | accAddS
  | accAddL
  | serOutS
  | serOutL
  deriving DecidableEq, Repr

/-- The two formats of R70 and R72: the 65-bit command word and the 5-bit micro-operation code. -/
inductive Format where
  | cmd
  | uop
  deriving DecidableEq, Repr

end Sys2Proof
end

