-- ==== Sys2Proof/WellFormed.lean ====
section
/-!
DEFINITION. The checks of a term before it is encoded or run: the format of an operation, the range of a raw command or
code, and the range of `MAX_LEN` (`Config.maxLenOk`).
-/

namespace Sys2Proof

/-- The format of an operation (R80). -/
def Instr.format : Instr → Format
  | .digestS _ => .cmd
  | .digestL _ => .cmd
  | .initS => .uop
  | .initL => .uop
  | .segFillS => .uop
  | .segFillL => .uop
  | .segRoomS => .uop
  | .segRoomL => .uop
  | .segSynthS => .uop
  | .segSynthL => .uop
  | .expLoadS => .uop
  | .expLoadL => .uop
  | .expMixS => .uop
  | .expMixL => .uop
  | .rndSeedS => .uop
  | .rndSeedL => .uop
  | .rndStepS => .uop
  | .rndStepL => .uop
  | .accAddS => .uop
  | .accAddL => .uop
  | .serOutS => .uop
  | .serOutL => .uop

/-- Bits of a format: 65 for a command (R70), 5 for a micro-operation (R72). -/
def Format.bits : Format → Nat
  | .cmd => 65
  | .uop => 5

/-- Bytes a format occupies when it is laid out in whole bytes (log entry 4). -/
def Format.bytes : Format → Nat
  | .cmd => 9
  | .uop => 1

/-- The raw operands of an operation as a caller may write them down, before they are known to fit their fields. -/
structure RawCommand where
  variantCode : Nat
  messageLength : Nat
  deriving DecidableEq, Repr

/-- A raw command fits the command word: the variant code is 0 or 1 (R71) and the length fits `LEN_W = 64` bits
(R10). -/
def RawCommand.wf (c : RawCommand) : Bool := decide (c.variantCode < 2) && decide (c.messageLength < 2 ^ 64)

/-- The command of a raw command that fits (R70, R71). -/
def RawCommand.toInstr (c : RawCommand) : Option Instr :=
  if c.wf then
    some (if c.variantCode = 0 then .digestS (BitVec.ofNat 64 c.messageLength)
      else .digestL (BitVec.ofNat 64 c.messageLength))
  else none

/-- A 5-bit code selects a micro-operation: its phase code is one of 1 to 10 (R72); 0 and 11 are `IDLE` and `DONE`,
12 to 15 are unused (R81). -/
def uopCodeOk (c : BitVec 5) : Bool :=
  decide (1 ≤ (c.setWidth 4).toNat) && decide ((c.setWidth 4).toNat ≤ 10)

/-- Well-formedness of an operation. The operand of a command is a 64-bit value by its type and every one of the
`2^65` command words is legal; a micro-operation has no operand (R81). So every term is well formed. -/
def Instr.wf : Instr → Bool
  | .digestS _ => true
  | .digestL _ => true
  | .initS => true
  | .initL => true
  | .segFillS => true
  | .segFillL => true
  | .segRoomS => true
  | .segRoomL => true
  | .segSynthS => true
  | .segSynthL => true
  | .expLoadS => true
  | .expLoadL => true
  | .expMixS => true
  | .expMixL => true
  | .rndSeedS => true
  | .rndSeedL => true
  | .rndStepS => true
  | .rndStepL => true
  | .accAddS => true
  | .accAddL => true
  | .serOutS => true
  | .serOutL => true

end Sys2Proof
end

