-- ==== Sys2Proof/Decode.lean ====
section
/-!
DEFINITION. Decoding and encoding of the command word and of the micro-operation codes (30_encoding.md rules R70 to
R72, R80, R81), and the layout of both in whole bytes (log entry 4).
-/

namespace Sys2Proof

/-- Why a word is no operation. -/
inductive DecodeError where
  /-- Neither one byte (a micro-operation code) nor nine bytes (a command word). -/
  | wrongLength (n : Nat)
  /-- Bits 7:5 of the byte that holds a 5-bit code are not zero. -/
  | codeTooWide
  /-- Bits 71:65 of the nine bytes that hold a 65-bit command word are not zero. -/
  | commandTooWide
  /-- Phase code 0000, `IDLE`: no micro-operation is performed (R72). -/
  | idlePhase
  /-- Phase code 1011, `DONE`: no micro-operation is performed (R72). -/
  | donePhase
  /-- Phase codes 1100 to 1111: unused (R81). -/
  | unusedPhase
  deriving DecidableEq, Repr

/-- The one-bit variant code: Short = 0, Long = 1 (R71). -/
def variantBit : Variant → BitVec 1
  | .short => 0
  | .long => 1

/-- The variant a one-bit code stands for (R71). -/
def variantOfBit (b : Bool) : Variant := if b then .long else .short

/-- The command word `CMD = variant ‖ message_length` (R70). -/
def cmdWord (v : Variant) (len : BitVec 64) : BitVec 65 := variantBit v ++ len

/-- `CMD[64]`, read by R71. -/
def cmdVariant (w : BitVec 65) : Variant := variantOfBit (w.getLsbD 64)

/-- `CMD[63:0]`, the `message_length` field (R70). -/
def cmdLength (w : BitVec 65) : BitVec 64 := w.setWidth 64

/-- A decoder of `CMD` tests bit 64 (R80); every word is legal (R81). -/
def decodeCmd (w : BitVec 65) : Instr :=
  match cmdVariant w with
  | .short => .digestS (cmdLength w)
  | .long => .digestL (cmdLength w)

/-- The twenty micro-operation codes `UOP = variant ‖ phase` (table of R72). -/
def uopTable : List (BitVec 5 × Instr) :=
  [ (0b00001, .initS), (0b10001, .initL),
    (0b00010, .segFillS), (0b10010, .segFillL),
    (0b00011, .segRoomS), (0b10011, .segRoomL),
    (0b00100, .segSynthS), (0b10100, .segSynthL),
    (0b00101, .expLoadS), (0b10101, .expLoadL) ] ++
  [ (0b00110, .expMixS), (0b10110, .expMixL),
    (0b00111, .rndSeedS), (0b10111, .rndSeedL),
    (0b01000, .rndStepS), (0b11000, .rndStepL),
    (0b01001, .accAddS), (0b11001, .accAddL),
    (0b01010, .serOutS), (0b11010, .serOutL) ]

/-- Why a code outside the table is no micro-operation (R72, R81). -/
def uopError (c : BitVec 5) : DecodeError :=
  match (c.setWidth 4).toNat with
  | 0 => .idlePhase
  | 11 => .donePhase
  | _ => .unusedPhase

/-- A decoder of `UOP` tests all five bits (R80). -/
def decodeUop (c : BitVec 5) : Except DecodeError Instr :=
  match uopTable.lookup c with
  | some i => .ok i
  | none => .error (uopError c)

/-- The value of bytes laid out least significant first (log entry 4). -/
def bytesToNat : List Byte → Nat
  | [] => 0
  | b :: rest => b.toNat + 256 * bytesToNat rest

/-- The low `n` bytes of a value, least significant first (log entry 4). -/
def natToBytes : Nat → Nat → List Byte
  | 0, _ => []
  | n + 1, x => BitVec.ofNat 8 x :: natToBytes n (x / 256)

/-- Decoding of any bytes: one byte is a micro-operation code, nine bytes are a command word, anything else is
rejected by name. -/
def decode (bs : List Byte) : Except DecodeError Instr :=
  match bs.length with
  | 1 => if bytesToNat bs < 2 ^ 5 then decodeUop (BitVec.ofNat 5 (bytesToNat bs)) else .error .codeTooWide
  | 9 => if bytesToNat bs < 2 ^ 65 then .ok (decodeCmd (BitVec.ofNat 65 (bytesToNat bs))) else .error .commandTooWide
  | n => .error (.wrongLength n)

/-- The word of an operation as a number: its command word (R70) or its 5-bit code (R72). -/
def encodeNat : Instr → Nat
  | .digestS len => (cmdWord .short len).toNat
  | .digestL len => (cmdWord .long len).toNat
  | .initS => 0b00001
  | .initL => 0b10001
  | .segFillS => 0b00010
  | .segFillL => 0b10010
  | .segRoomS => 0b00011
  | .segRoomL => 0b10011
  | .segSynthS => 0b00100
  | .segSynthL => 0b10100
  | .expLoadS => 0b00101
  | .expLoadL => 0b10101
  | .expMixS => 0b00110
  | .expMixL => 0b10110
  | .rndSeedS => 0b00111
  | .rndSeedL => 0b10111
  | .rndStepS => 0b01000
  | .rndStepL => 0b11000
  | .accAddS => 0b01001
  | .accAddL => 0b11001
  | .serOutS => 0b01010
  | .serOutL => 0b11010

/-- The encoder: the operation's word laid out in the whole bytes of its format. -/
def encode (i : Instr) : List Byte := natToBytes i.format.bytes (encodeNat i)

/-- The whole bytes a table word is laid out in: one byte for a row of at most 8 bits, nine for a longer one, whose
bits above `nbits` are 0. -/
def tableBytes (nbits : Nat) : Nat := if nbits ≤ 8 then 1 else if nbits ≤ 72 then 9 else (nbits + 7) / 8

/-- The operation the decoder reads from a table word of `nbits` bits `w` (bit 0 the least significant bit of the
first byte). -/
def decodeTableWord (nbits w : Nat) : Option Instr :=
  (decode (natToBytes (tableBytes nbits) (w % 2 ^ nbits))).toOption

end Sys2Proof
end

