-- ==== Sys2Proof/Machine/Command.lean ====
section
/-!
DEFINITION. The DIGEST command and INIT (44_sequencer_and_digest_command.md rules R137, R138, R143).
-/

namespace Sys2Proof.Machine

/-- Acceptance of a command in `IDLE` or `DONE`: the command word is held and the computation starts (R137, R46). The
core has then taken the presented word. While `busy = 1` a command has no meaning and the model refuses it (R143). -/
def acceptCommand (v : Variant) (len : BitVec 64) (s : State) : Result :=
  if busyFlag s then .refused .commandWhileBusy
  else .next (((s.setCmd (cmdWord v len)).setPhase .init).setPresented none)

/-- The clamp: `L = min(message_length, MAX_LEN)`, silent (R23, R156, R163). -/
def clampLength (maxLen : Nat) (len : BitVec 64) : BitVec 64 := BitVec.ofNat 64 (min len.toNat maxLen)

/-- INIT: latch the command, clamp the length, load the initial state (R138). -/
def initCompute (v : Variant) (s : State) : Result :=
  .next ((((((((s.setVariant v).setMessageLength (cmdLength s.cmd)).setL (clampLength Config.maxLen (cmdLength s.cmd))).setH
    (stateSlots v (octOf (initialWord v)))).setProcessed 0).setTerminal false).setSynthPending false).setPhase .segFill)

/-- DIGEST.S (R137). -/
def execDigestS (len : BitVec 64) (s : State) : Result := acceptCommand .short len s

/-- DIGEST.L (R137). -/
def execDigestL (len : BitVec 64) (s : State) : Result := acceptCommand .long len s

/-- INIT.S (R138). -/
def execInitS (s : State) : Result := initCompute .short s

/-- INIT.L (R138). -/
def execInitL (s : State) : Result := initCompute .long s

end Sys2Proof.Machine
end

