-- ==== Sys2Proof/Machine/Functions.lean ====
section
/-!
DEFINITION. The combinational functions on words (41_schedule_expander.md rules R107 to R112, 42_compression_round.md
rules R117 to R123).
-/

namespace Sys2Proof.Machine

/-- `ROTR_n(x)`, right rotation by `n` places, `0 < n < w` (R111; 00_scope.md section 5). -/
def rotr {w : Nat} (n : Nat) (x : BitVec w) : BitVec w := (x >>> n) ^^^ (x <<< (w - n))

/-- `SHR_n(x)`, logical right shift (R111). -/
def shr {w : Nat} (n : Nat) (x : BitVec w) : BitVec w := x >>> n

/-- The shape of `σ`: two rotations and one shift, combined by exclusive or (R107). -/
def smallSigma {w : Nat} (n : Amounts) (x : BitVec w) : BitVec w := rotr n.p x ^^^ rotr n.q x ^^^ shr n.r x

/-- The shape of `Σ`: three rotations, combined by exclusive or (R119). -/
def bigSigma {w : Nat} (n : Amounts) (x : BitVec w) : BitVec w := rotr n.p x ^^^ rotr n.q x ^^^ rotr n.r x

/-- `σ0` of the variant (R108, R110). -/
def sigma0 (v : Variant) (x : Word v) : Word v := smallSigma v.s0 x

/-- `σ1` of the variant (R109, R112). -/
def sigma1 (v : Variant) (x : Word v) : Word v := smallSigma v.s1 x

/-- `Σ0` of the variant (R120, R122). -/
def bigSigma0 (v : Variant) (x : Word v) : Word v := bigSigma v.bigS0 x

/-- `Σ1` of the variant (R121, R123). -/
def bigSigma1 (v : Variant) (x : Word v) : Word v := bigSigma v.bigS1 x

/-- `Ch` (R117). -/
def ch {w : Nat} (x y z : BitVec w) : BitVec w := (x &&& y) ^^^ (~~~x &&& z)

/-- `Maj` (R118). -/
def maj {w : Nat} (x y z : BitVec w) : BitVec w := (x &&& y) ^^^ (x &&& z) ^^^ (y &&& z)

end Sys2Proof.Machine
end

