-- ==== Sys2Proof/Machine/Expander.lean ====
section
/-!
DEFINITION. The Schedule Expander: EXP.LOAD, EXP.MIX (41_schedule_expander.md rules R105 to R113).
-/

namespace Sys2Proof.Machine

/-- Native word `i` of a block: the big-endian packing of `WB(v)` consecutive bytes (R56, R77, R105). -/
def nativeWord (v : Variant) (blk : Vector Byte 128) (i : Nat) : Word v :=
  packBE v.wb (fun j => byteAt blk (v.wb * i + j))

/-- EXP.LOAD: the sixteen native words (R105). Words 16 and up are not written. -/
def expLoad (v : Variant) (s : State) : Result :=
  .next (((s.setW (Vector.ofFn (fun i : Fin 80 => if i.val < 16 then toSlot v (nativeWord v s.blk i.val) else s.W[i]))).setT
    16).setPhase .expMix)

/-- `W[t] = σ1(W[t-2]) + W[t-7] + σ0(W[t-15]) + W[t-16]` modulo the word width (R106). -/
def mixWord (v : Variant) (W : Vector Slot 80) (t : Nat) : Word v :=
  sigma1 v (wordAt v W (t - 2)) + wordAt v W (t - 7) + sigma0 v (wordAt v W (t - 15)) + wordAt v W (t - 16)

/-- EXP.MIX: one derived word (R106). -/
def expMix (v : Variant) (s : State) : Result :=
  let t := s.t.toNat
  if 16 ≤ t ∧ t < v.nr then
    .next (((s.setW (s.W.setIfInBounds t (toSlot v (mixWord v s.W t)))).setT (s.t + 1)).setPhase
      (if t + 1 = v.nr then .rndSeed else .expMix))
  else .fault .scheduleIndexOutOfRange

/-- EXP.LOAD.S (R105). -/
def execExpLoadS (s : State) : Result := expLoad .short s

/-- EXP.LOAD.L (R105). -/
def execExpLoadL (s : State) : Result := expLoad .long s

/-- EXP.MIX.S (R106). -/
def execExpMixS (s : State) : Result := expMix .short s

/-- EXP.MIX.L (R106). -/
def execExpMixL (s : State) : Result := expMix .long s

end Sys2Proof.Machine
end

