-- ==== Sys2Proof/Machine/Round.lean ====
section
/-!
DEFINITION. The Compression Round: RND.SEED, RND.STEP (42_compression_round.md rules R115 to R126).
-/

namespace Sys2Proof.Machine

/-- RND.SEED: the working registers take the running state (R115). -/
def rndSeed (v : Variant) (s : State) : Result :=
  .next (((s.setRegs (regSlots v (stateWords v s.H))).setT 0).setPhase .rndStep)

/-- One round: `T1`, `T2` and the shift of the register chain, every right side from the values before the round (R116,
90_conflicts.md C2). -/
def roundWords (v : Variant) (k w : Word v) (r : Oct (Word v)) : Oct (Word v) :=
  let t1 := r.h + bigSigma1 v r.e + ch r.e r.f r.g + k + w
  let t2 := bigSigma0 v r.a + maj r.a r.b r.c
  { a := t1 + t2, b := r.a, c := r.b, d := r.c, e := r.d + t1, f := r.e, g := r.f, h := r.g }

/-- RND.STEP: round `t` (R116). -/
def rndStep (v : Variant) (s : State) : Result :=
  let t := s.t.toNat
  if t < v.nr then
    .next (((s.setRegs (regSlots v (roundWords v (roundConst v t) (wordAt v s.W t) (regWords v s.regs)))).setT
      (s.t + 1)).setPhase (if t + 1 = v.nr then .accAdd else .rndStep))
  else .fault .roundIndexOutOfRange

/-- RND.SEED.S (R115). -/
def execRndSeedS (s : State) : Result := rndSeed .short s

/-- RND.SEED.L (R115). -/
def execRndSeedL (s : State) : Result := rndSeed .long s

/-- RND.STEP.S (R116). -/
def execRndStepS (s : State) : Result := rndStep .short s

/-- RND.STEP.L (R116). -/
def execRndStepL (s : State) : Result := rndStep .long s

end Sys2Proof.Machine
end

