-- ==== Sys2Proof/Machine/Segmenter.lean ====
section
/-!
DEFINITION. The Padder/Segmenter: SEG.FILL, SEG.ROOM, SEG.SYNTH (40_padder_segmenter.md rules R90 to R99).
-/

namespace Sys2Proof.Machine

/-- Byte `i` of the raw block at the cursor: a message byte below `L`, the marker at `L`, zero beyond (R90); or the
refusal of its read of the message (R67). -/
def fillByte (s : State) (i : Nat) : Except Refusal Byte :=
  let idx := s.processed.toNat + i
  if idx < s.L.toNat then readMessage s idx
  else if idx = s.L.toNat then .ok 0x80
  else .ok 0x00

/-- The refusal of the first byte of the raw block, in increasing index (R53), whose read of the message is refused. -/
def fillRefusal (v : Variant) (s : State) : Option Refusal :=
  (List.range v.bs).findSome? (fun i =>
    match fillByte s i with
    | .ok _ => none
    | .error r => some r)

/-- The block buffer with bytes `0 .. B-1` given by `f`. Storage beyond the variant's block is left (log entry 2). -/
def setBlock (v : Variant) (blk : Vector Byte 128) (f : Nat → Byte) : Vector Byte 128 :=
  Vector.ofFn (fun i : Fin 128 => if i.val < v.bs then f i.val else blk[i])

/-- SEG.FILL: copy one block's worth from the message (R90), or refuse with the read it cannot make (R67). -/
def segFill (v : Variant) (s : State) : Result :=
  match fillRefusal v s with
  | none => .next ((s.setBlk (setBlock v s.blk (fun i => (fillByte s i).toOption.getD 0))).setPhase .segRoom)
  | some r => .refused r

/-- `bitlen = (L * 8) mod 2^64` (R92). -/
def bitLength (L : BitVec 64) : BitVec 64 := L * 8

/-- `WriteTrailer(blk)`: zero the upper bytes of the length field, write the bit length big-endian into the last 8 bytes
of the block (R92, R75, R76). -/
def writeTrailer (v : Variant) (L : BitVec 64) (blk : Vector Byte 128) : Vector Byte 128 :=
  setBlock v blk (fun i =>
    if i < v.bs - v.lf then byteAt blk i
    else if i < v.bs - v.lw then 0x00
    else byteBE v.lw (bitLength L) (i - (v.bs - v.lw)))

/-- SEG.ROOM: decide room, write the trailer, flag the block (R91). -/
def segRoom (v : Variant) (s : State) : Result :=
  let s1 := (s.setRoom (roomDecision v s)).setPhase .expLoad
  if roomDecision v s then .next ((s1.setBlk (writeTrailer v s.L s.blk)).setTerminal true)
  else if messageEnded v s then .next (s1.setSynthPending true)
  else .next s1

/-- The synthetic block before its trailer: all zero, but byte 0 is the marker when `L mod B = 0` (R93). -/
def synthBlock (v : Variant) (L : BitVec 64) (blk : Vector Byte 128) : Vector Byte 128 :=
  setBlock v blk (fun i => if i = 0 ∧ L.toNat % v.bs = 0 then 0x80 else 0x00)

/-- SEG.SYNTH: the extra all-padding block (R93). -/
def segSynth (v : Variant) (s : State) : Result :=
  .next ((((s.setBlk (writeTrailer v s.L (synthBlock v s.L s.blk))).setTerminal true).setSynthPending false).setPhase
    .expLoad)

/-- SEG.FILL.S (R90). -/
def execSegFillS (s : State) : Result := segFill .short s

/-- SEG.FILL.L (R90). -/
def execSegFillL (s : State) : Result := segFill .long s

/-- SEG.ROOM.S (R91). -/
def execSegRoomS (s : State) : Result := segRoom .short s

/-- SEG.ROOM.L (R91). -/
def execSegRoomL (s : State) : Result := segRoom .long s

/-- SEG.SYNTH.S (R93). -/
def execSegSynthS (s : State) : Result := segSynth .short s

/-- SEG.SYNTH.L (R93). -/
def execSegSynthL (s : State) : Result := segSynth .long s

end Sys2Proof.Machine
end

