-- ==== Sys2Proof/Machine/Dispatch.lean ====
section
/-!
DEFINITION. One arm per operation: each a direct call of that operation's meaning.
-/

namespace Sys2Proof.Machine

def exec (i : Instr) (s : State) : Host.Outcome State Fault Refusal :=
  match i with
  | .digestS len => Sys2Proof.Machine.execDigestS len s
  | .digestL len => Sys2Proof.Machine.execDigestL len s
  | .initS => Sys2Proof.Machine.execInitS s
  | .initL => Sys2Proof.Machine.execInitL s
  | .segFillS => Sys2Proof.Machine.execSegFillS s
  | .segFillL => Sys2Proof.Machine.execSegFillL s
  | .segRoomS => Sys2Proof.Machine.execSegRoomS s
  | .segRoomL => Sys2Proof.Machine.execSegRoomL s
  | .segSynthS => Sys2Proof.Machine.execSegSynthS s
  | .segSynthL => Sys2Proof.Machine.execSegSynthL s
  | .expLoadS => Sys2Proof.Machine.execExpLoadS s
  | .expLoadL => Sys2Proof.Machine.execExpLoadL s
  | .expMixS => Sys2Proof.Machine.execExpMixS s
  | .expMixL => Sys2Proof.Machine.execExpMixL s
  | .rndSeedS => Sys2Proof.Machine.execRndSeedS s
  | .rndSeedL => Sys2Proof.Machine.execRndSeedL s
  | .rndStepS => Sys2Proof.Machine.execRndStepS s
  | .rndStepL => Sys2Proof.Machine.execRndStepL s
  | .accAddS => Sys2Proof.Machine.execAccAddS s
  | .accAddL => Sys2Proof.Machine.execAccAddL s
  | .serOutS => Sys2Proof.Machine.execSerOutS s
  | .serOutL => Sys2Proof.Machine.execSerOutL s

end Sys2Proof.Machine
end

