-- ==== Sys2Proof/Machine/Fetch.lean ====
section
/-!
DEFINITION. What the sequencer performs next (10_state.md rule R34, 30_encoding.md rule R72,
44_sequencer_and_digest_command.md rule R139): the core has no instruction stream and no program counter. Also how a
table word is placed so that the next step performs it.
-/

namespace Sys2Proof.Machine

/-- The phase codes (table of R34). -/
def phaseCode : Phase → BitVec 4
  | .idle => 0
  | .init => 1
  | .segFill => 2
  | .segRoom => 3
  | .segSynth => 4
  | .expLoad => 5
  | .expMix => 6
  | .rndSeed => 7
  | .rndStep => 8
  | .accAdd => 9
  | .serOut => 10
  | .done => 11

/-- The variant a micro-operation is performed for: the `variant` register (R72), or in `INIT` the variant being
latched, `cmd[64]` (R138). -/
def activeVariant (s : State) : Variant :=
  match s.phase with
  | .init => cmdVariant s.cmd
  | _ => s.variant

/-- `UOP = variant ‖ phase` (R72). -/
def uopCode (s : State) : BitVec 5 := variantBit (activeVariant s) ++ phaseCode s.phase

/-- What the core performs next: the command the host presents, if any (R137, R143); else the micro-operation of the
phase; nothing in `IDLE` and `DONE` (R72, R139). -/
def fetch (s : State) : Option Instr :=
  match s.presented with
  | some w => some (decodeCmd w)
  | none => (decodeUop (uopCode s)).toOption

/-- The counter on entry to a phase that reads it, where it is outside the phase's range: 16 for `EXP_MIX` (R105), 0 for
`RND_STEP` (R115). -/
def entryCounter (v : Variant) (p : Phase) (t : BitVec 7) : BitVec 7 :=
  match p with
  | .expMix => if 16 ≤ t.toNat ∧ t.toNat < v.nr then t else 16
  | .rndStep => if t.toNat < v.nr then t else 0
  | _ => t

/-- The sequencer placed in a phase for a variant, with no command presented: in `INIT` the variant is the command's. -/
def placePhase (v : Variant) (p : Phase) (s : State) : State :=
  let s1 := ((s.setPresented none).setPhase p).setT (entryCounter v p s.t)
  match p with
  | .init => s1.setCmd (cmdWord v (cmdLength s.cmd))
  | _ => s1.setVariant v

/-- A command word presented to a core that can accept it: a busy core is put in `IDLE`. -/
def placeCommand (w : BitVec 65) (s : State) : State :=
  (if busyFlag s then s.setPhase .idle else s).setPresented (some w)

/-- The state in which the next step performs exactly the given operation (log entry 7). -/
def placeInstr (i : Instr) (s : State) : State :=
  match i with
  | .digestS len => placeCommand (cmdWord .short len) s
  | .digestL len => placeCommand (cmdWord .long len) s
  | .initS => placePhase .short .init s
  | .initL => placePhase .long .init s
  | .segFillS => placePhase .short .segFill s
  | .segFillL => placePhase .long .segFill s
  | .segRoomS => placePhase .short .segRoom s
  | .segRoomL => placePhase .long .segRoom s
  | .segSynthS => placePhase .short .segSynth s
  | .segSynthL => placePhase .long .segSynth s
  | .expLoadS => placePhase .short .expLoad s
  | .expLoadL => placePhase .long .expLoad s
  | .expMixS => placePhase .short .expMix s
  | .expMixL => placePhase .long .expMix s
  | .rndSeedS => placePhase .short .rndSeed s
  | .rndSeedL => placePhase .long .rndSeed s
  | .rndStepS => placePhase .short .rndStep s
  | .rndStepL => placePhase .long .rndStep s
  | .accAddS => placePhase .short .accAdd s
  | .accAddL => placePhase .long .accAdd s
  | .serOutS => placePhase .short .serOut s
  | .serOutL => placePhase .long .serOut s

/-- A table word placed for the next step; a word that is no operation places nothing. -/
def placeWord (s : State) (nbits w : Nat) : State :=
  match decodeTableWord nbits w with
  | some i => placeInstr i s
  | none => s

end Sys2Proof.Machine
end

