-- ==== Sys2Proof/Machine/Step.lean ====
section
/-!
DEFINITION. One step of the core: one operation of the sequencer, or nothing in `IDLE` and `DONE` without a command
(44_sequencer_and_digest_command.md rule R139).
-/

namespace Sys2Proof.Machine

/-- A state in which the next step performs exactly the operation of a table word. -/
def State.withFetchWord (s : State) (nbits w : Nat) : State := placeWord s nbits w

/-- One step: what `fetch` gives is performed; where it gives nothing, nothing changes (R139, R142). -/
def step (s : State) : Host.Outcome State Fault Refusal :=
  match fetch s with
  | some i => exec i s
  | none => .next s

end Sys2Proof.Machine
end

