-- ==== Sys2Proof/Machine/HostPort.lean ====
section
/-!
DEFINITION. What the host does at the core's boundary and what it sees there (20_memory.md rule R65,
70_reset_and_hazards.md rules R170, R172, R176). These are no operations of the core: a step never calls them.
-/

namespace Sys2Proof.Machine

/-- The host makes a message available: byte `i` of the list is `MSG[i]` (R50, R172 item 1). While `busy = 1` the message
is a fixed parameter of the computation and changing it has no meaning (R172 item 3, R177). -/
def hostLoadMessage (bytes : List Byte) (s : State) : Result :=
  if busyFlag s then .refused .messageChangedWhileBusy else .next (s.setMsg (Memory.ofBytes 0 bytes))

/-- The host presents a command word (R172 item 2). -/
def hostPresent (w : BitVec 65) (s : State) : State := s.setPresented (some w)

/-- The host reads byte `i` of the digest: a value only while `done = 1` and only below `DS(v)` (R39, R65, R176). -/
def hostReadDigest (s : State) (i : Nat) : Option Byte :=
  if doneFlag s && decide (i < s.variant.ds) then s.digestOut.read i else none

/-- Hardware reset, at any time: the computation is abandoned, the core is in `IDLE` and `digest_out` has no value
(R170). The message bytes are the caller's and stay. -/
def hostReset (s : State) : State := State.reset.setMsg s.msg

end Sys2Proof.Machine
end

