-- ==== Sys2Proof/Machine/Reference.lean ====
section
/-!
DEFINITION. The computation as one function of the message: the padded message (30_encoding.md rules R73 to R76), the
schedule, the rounds and the digest (43_state_accumulator.md rule R133, the second pseudocode of R137), and the number of
steps a computation takes (R140). No step calls these: they are what the step-by-step machine is compared with.
-/

namespace Sys2Proof.Machine

/-- `N(v, L)`: the number of blocks (R74). -/
def numBlocks (v : Variant) (L : Nat) : Nat := (L + v.lf + v.bs) / v.bs

/-- `Z(v, L)`: the number of zero bytes between the marker and the length field (R74). -/
def numZeros (v : Variant) (L : Nat) : Nat := numBlocks v L * v.bs - L - 1 - v.lf

/-- `Nraw = max(1, ceil(L / B))`: the number of raw blocks (R94). -/
def numRawBlocks (v : Variant) (L : Nat) : Nat := max 1 ((L + v.bs - 1) / v.bs)

/-- Byte `p` of the padded message `message ‖ 0x80 ‖ zeros ‖ big-endian bit length` (R73, R75, R76); `m` gives the message
bytes. -/
def padByte (v : Variant) (m : Nat → Byte) (L p : Nat) : Byte :=
  let total := numBlocks v L * v.bs
  if p < L then m p
  else if p = L then 0x80
  else if p < total - v.lw then 0x00
  else BitVec.ofNat 8 (L * 8 / 256 ^ (total - 1 - p))

/-- Byte `i` of block `k` of the padded message (R73). -/
def padBlock (v : Variant) (m : Nat → Byte) (L k i : Nat) : Byte := padByte v m L (k * v.bs + i)

/-- The value of `n` bytes, the first the most significant (`BE` of 00_scope.md section 5), as a natural number. -/
def beNat (n : Nat) (f : Nat → Byte) : Nat := (List.range n).foldl (fun acc j => acc * 256 + (f j).toNat) 0

/-- One more schedule word from the words so far (R106). -/
def extendSchedule (v : Variant) (ws : List (Word v)) : List (Word v) :=
  let t := ws.length
  ws ++ [sigma1 v (ws.getD (t - 2) 0) + ws.getD (t - 7) 0 + sigma0 v (ws.getD (t - 15) 0) + ws.getD (t - 16) 0]

/-- `n` more schedule words. -/
def extendBy (v : Variant) : Nat → List (Word v) → List (Word v)
  | 0, ws => ws
  | n + 1, ws => extendSchedule v (extendBy v n ws)

/-- The sixteen native words of a block (R105). -/
def nativeWords (v : Variant) (blk : Nat → Byte) : List (Word v) :=
  (List.range 16).map (fun i => BitVec.ofNat v.ww (beNat v.wb (fun j => blk (v.wb * i + j))))

/-- The whole schedule of a block (R105, R106). -/
def scheduleOf (v : Variant) (blk : Nat → Byte) : List (Word v) := extendBy v (v.nr - 16) (nativeWords v blk)

/-- The first `n` rounds over a schedule (R116, R125). -/
def roundsOf (v : Variant) (ws : List (Word v)) : Nat → Oct (Word v) → Oct (Word v)
  | 0, r => r
  | n + 1, r => roundWords v (roundConst v n) (ws.getD n 0) (roundsOf v ws n r)

/-- `Compress(v, H, block)` of R137: the state after the block (R133). -/
def compress (v : Variant) (h : Oct (Word v)) (blk : Nat → Byte) : Oct (Word v) :=
  addWords v h (roundsOf v (scheduleOf v blk) v.nr h)

/-- `H_k` of R133: the running state after `k` blocks. -/
def stateAfter (v : Variant) (m : Nat → Byte) (L : Nat) : Nat → Oct (Word v)
  | 0 => octOf (initialWord v)
  | k + 1 => compress v (stateAfter v m L k) (padBlock v m L k)

/-- The eight words as a list, in the order of R25. -/
def Oct.toList {α : Type} (o : Oct α) : List α := [o.a, o.b, o.c, o.d, o.e, o.f, o.g, o.h]

/-- Byte `p` of `digest(v, MSG, L)` (R133, R137, R78), `m` the message bytes and `L` the clamped length. -/
def digestOf (v : Variant) (m : Nat → Byte) (L p : Nat) : Byte :=
  BitVec.ofNat 8 (((stateAfter v m L (numBlocks v L)).toList.getD (p / v.wb) 0).toNat / 256 ^ (v.wb - 1 - p % v.wb))

/-- Steps of a raw block: `5 + (NR(v)-16) + NR(v)` (R140). -/
def rawBlockSteps (v : Variant) : Nat := 5 + (v.nr - 16) + v.nr

/-- Steps of a whole computation, from `INIT` to `DONE`: `1 + (sum over its blocks) + 1`, a synthetic block taking one step
fewer than a raw one (R140). -/
def computationSteps (v : Variant) (L : Nat) : Nat :=
  1 + numRawBlocks v L * rawBlockSteps v + (numBlocks v L - numRawBlocks v L) * (rawBlockSteps v - 1) + 1

end Sys2Proof.Machine
end

