-- ==== Sys2Proof/Safety.lean ====
section
/-!
DEFINITION. What claims are stated in: the invariant of the sequencer, the host's duties, the names of the two forms of
a micro-operation, and the step table of the sequencer.
-/

namespace Sys2Proof.Safety

open Sys2Proof.Machine

/-- DIGEST of a variant (R70). -/
def digestCmd : Variant → BitVec 64 → Instr
  | .short, len => .digestS len
  | .long, len => .digestL len

/-- INIT of a variant (R72). -/
def initOp : Variant → Instr
  | .short => .initS
  | .long => .initL

/-- SEG.FILL of a variant. -/
def segFillOp : Variant → Instr
  | .short => .segFillS
  | .long => .segFillL

/-- SEG.ROOM of a variant. -/
def segRoomOp : Variant → Instr
  | .short => .segRoomS
  | .long => .segRoomL

/-- SEG.SYNTH of a variant. -/
def segSynthOp : Variant → Instr
  | .short => .segSynthS
  | .long => .segSynthL

/-- EXP.LOAD of a variant. -/
def expLoadOp : Variant → Instr
  | .short => .expLoadS
  | .long => .expLoadL

/-- EXP.MIX of a variant. -/
def expMixOp : Variant → Instr
  | .short => .expMixS
  | .long => .expMixL

/-- RND.SEED of a variant. -/
def rndSeedOp : Variant → Instr
  | .short => .rndSeedS
  | .long => .rndSeedL

/-- RND.STEP of a variant. -/
def rndStepOp : Variant → Instr
  | .short => .rndStepS
  | .long => .rndStepL

/-- ACC.ADD of a variant. -/
def accAddOp : Variant → Instr
  | .short => .accAddS
  | .long => .accAddL

/-- SER.OUT of a variant. -/
def serOutOp : Variant → Instr
  | .short => .serOutS
  | .long => .serOutL

/-- The micro-operation of a phase and a variant; none in `IDLE` and `DONE` (tables of R34 and R72). -/
def phaseOp (v : Variant) : Phase → Option Instr
  | .idle => none
  | .init => some (initOp v)
  | .segFill => some (segFillOp v)
  | .segRoom => some (segRoomOp v)
  | .segSynth => some (segSynthOp v)
  | .expLoad => some (expLoadOp v)
  | .expMix => some (expMixOp v)
  | .rndSeed => some (rndSeedOp v)
  | .rndStep => some (rndStepOp v)
  | .accAdd => some (accAddOp v)
  | .serOut => some (serOutOp v)
  | .done => none

/-- The last `LF(v)` bytes of the block hold the length field of `L` (R75, R76): zeros, then the bit length big-endian. -/
def carriesTrailer (s : State) : Prop :=
  (∀ i < s.variant.lf - 8, byteAt s.blk (s.variant.bs - s.variant.lf + i) = 0) ∧
    ∀ j < 8, byteAt s.blk (s.variant.bs - 8 + j) = BitVec.ofNat 8 (s.L.toNat * 8 / 256 ^ (7 - j))

/-- What holds while a block that is in `blk` is expanded, compressed and accumulated (R90 to R94, R99): either it is
terminal, or it is the last raw block and had no room, or more raw blocks follow. -/
def blockPending (s : State) : Prop :=
  (s.terminal = false → s.processed.toNat ≤ s.L.toNat) ∧
    (s.terminal = false → s.synthPending = false → s.processed.toNat + s.variant.bs < s.L.toNat) ∧
    (s.synthPending = true → 0 < s.L.toNat ∧ s.L.toNat ≤ s.processed.toNat + s.variant.bs)

/-- What holds when a raw block is about to be built or tested (R99 (b)). -/
def rawBlockDue (s : State) : Prop :=
  s.terminal = false ∧ s.synthPending = false ∧
    (s.processed.toNat < s.L.toNat ∨ s.processed.toNat = 0 ∧ s.L.toNat = 0)

/-- What holds in each phase. -/
def phaseFacts (s : State) : Prop :=
  match s.phase with
  | .idle => True
  | .init => True
  | .segFill => rawBlockDue s
  | .segRoom => rawBlockDue s
  | .segSynth => s.terminal = false ∧ s.synthPending = true ∧ 0 < s.L.toNat ∧ s.L.toNat ≤ s.processed.toNat
  | .expLoad => blockPending s
  | .expMix => blockPending s ∧ 16 ≤ s.t.toNat ∧ s.t.toNat < s.variant.nr
  | .rndSeed => blockPending s ∧ s.t.toNat = s.variant.nr
  | .rndStep => blockPending s ∧ s.t.toNat < s.variant.nr
  | .accAdd => blockPending s ∧ s.t.toNat = s.variant.nr
  | .serOut => s.terminal = true
  | .done => s.terminal = true

/-- The invariant of the machine. It holds after reset and every step keeps it, from any state that has it. -/
structure Inv (s : State) : Prop where
  /-- Both spaces are in canonical form. -/
  msgWf : s.msg.wf
  digestWf : s.digestOut.wf
  /-- `DIG` holds no byte at or above index 64 (R40, R59). -/
  digestRange : ∀ c ∈ s.digestOut, c.1 < 64
  /-- `L <= MAX_LEN` (R23). -/
  bounded : s.L.toNat ≤ Config.maxLen
  /-- The cursor is a multiple of the block size (R32, R99 (a)). -/
  aligned : s.processed.toNat % s.variant.bs = 0
  /-- `terminal` and `synth_pending` are never both 1 (R99 (c)). -/
  notBoth : ¬(s.terminal = true ∧ s.synthPending = true)
  /-- Outside `INIT` the command registers are those of the held command (R138, R21 to R23). -/
  latched : s.phase ≠ .init →
    s.variant = cmdVariant s.cmd ∧ s.messageLength = cmdLength s.cmd ∧
      s.L.toNat = min s.messageLength.toNat Config.maxLen
  /-- A terminal block carries the bit-length trailer (R35, R91, R93). -/
  trailer : s.phase ≠ .init → s.terminal = true → carriesTrailer s
  /-- The facts of the phase. -/
  position : phaseFacts s

/-- The host keeps its duties at this step (R172): it presents no command while `busy = 1`, and the message bytes the next
block takes are available. -/
def hostKeepsDuties (s : State) : Prop :=
  (busyFlag s = true → s.presented = none) ∧
    (s.phase = .segFill → ∀ i < s.variant.bs, s.processed.toNat + i < s.L.toNat →
      (s.msg.read (s.processed.toNat + i)).isSome = true)

/-- A step that neither faults nor is refused. -/
def runs (s : State) : Prop := ∃ t, step s = .next t

/-- The message bytes as a function of the index, where they are available. -/
def messageOf (s : State) (i : Nat) : Byte := (s.msg.read i).getD 0

/-- The length a command leads to: `min(message_length, MAX_LEN)` of its word (R23). -/
def effectiveLength (w : BitVec 65) : Nat := min (cmdLength w).toNat Config.maxLen

/-- The bytes `0 .. n-1` of the message are available (R172 item 1). -/
def messageAvailable (s : State) (n : Nat) : Prop := ∀ i < n, (s.msg.read i).isSome = true

end Sys2Proof.Safety
end

