-- ==== Sys2Proof/Certificates/Slice0/Obligations.lean ====
section
/-!
DEFINITION. The statements for the provers: what the operations and the machine do, from the numbered rules of spec/. A
statement written over a variant `v` speaks of both forms of an operation, the `.S` form (`v = .short`) and the `.L` form.
-/

open Sys2Proof
open Sys2Proof.Machine
open Sys2Proof.Safety

/-! ## Encodings -/

/-- No bit of an encoding is dropped: decoding the encoder's bytes gives the operation back, for every operation and
every length of a command (30_encoding.md sections 1, 2 and 8; the byte layout is the model's, log entry 4). -/
def Obligations.DecodeInvertsEncode : Prop :=
  ∀ i : Instr, i.wf = true → decode (encode i) = .ok i

/-- Bytes have at most one meaning: bytes that decode to an operation are the ones the encoder gives for it (the byte
layout is the model's, log entry 4). -/
def Obligations.EncodeInvertsDecode : Prop :=
  ∀ (bs : List Byte) (i : Instr), decode bs = .ok i → encode i = bs

/-- Words written out from the spec decode to the operation they stand for: two command words of 95_test_vectors.md (P1,
P5, laid out low byte first, log entry 4) and all twenty codes of the table of R72. -/
def Obligations.WrittenWordsDecode : Prop :=
  decode [0x03, 0, 0, 0, 0, 0, 0, 0, 0x00] = .ok (.digestS 3) ∧
  decode [0x03, 0, 0, 0, 0, 0, 0, 0, 0x01] = .ok (.digestL 3) ∧
  decodeUop 0b00001 = .ok .initS ∧ decodeUop 0b10001 = .ok .initL ∧
  decodeUop 0b00010 = .ok .segFillS ∧ decodeUop 0b10010 = .ok .segFillL ∧
  decodeUop 0b00011 = .ok .segRoomS ∧ decodeUop 0b10011 = .ok .segRoomL ∧
  decodeUop 0b00100 = .ok .segSynthS ∧ decodeUop 0b10100 = .ok .segSynthL ∧
  decodeUop 0b00101 = .ok .expLoadS ∧ decodeUop 0b10101 = .ok .expLoadL ∧
  decodeUop 0b00110 = .ok .expMixS ∧ decodeUop 0b10110 = .ok .expMixL ∧
  decodeUop 0b00111 = .ok .rndSeedS ∧ decodeUop 0b10111 = .ok .rndSeedL ∧
  decodeUop 0b01000 = .ok .rndStepS ∧ decodeUop 0b11000 = .ok .rndStepL ∧
  decodeUop 0b01001 = .ok .accAddS ∧ decodeUop 0b11001 = .ok .accAddL ∧
  decodeUop 0b01010 = .ok .serOutS ∧ decodeUop 0b11010 = .ok .serOutL

/-- Every one of the `2^65` command words is a command: the variant is bit 64, the length bits 63:0. A code selects a
micro-operation exactly when its phase code is 1 to 10, and the sequencer never forms a phase code of 12 or more
(R70, R71, R72, R81). -/
def Obligations.EveryCommandWordIsLegal : Prop :=
  (∀ w : BitVec 65, ∃ i, decode (natToBytes 9 w.toNat) = .ok i ∧
    (w.toNat / 2 ^ 64 = 0 → i = .digestS (BitVec.ofNat 64 (w.toNat % 2 ^ 64))) ∧
    (w.toNat / 2 ^ 64 = 1 → i = .digestL (BitVec.ofNat 64 (w.toNat % 2 ^ 64)))) ∧
  (∀ c : BitVec 5, (∃ i, decodeUop c = .ok i) ↔ 1 ≤ c.toNat % 16 ∧ c.toNat % 16 ≤ 10) ∧
  (∀ s : State, (uopCode s).toNat % 16 < 12)

/-! ## The step -/

/-- A step performs the decoded operation and adds nothing around it. With a command presented it is the operation of that
word; with none it is the micro-operation whose code is `variant ‖ phase`; where that code is no micro-operation
(`IDLE` and `DONE`) nothing changes. The presented word is the model's own input field (log entry 10). -/
def Obligations.StepRunsFetchedOperation : Prop :=
  (∀ (s : State) (w : BitVec 65) (i : Instr), s.presented = some w → decode (natToBytes 9 w.toNat) = .ok i →
    step s = exec i s) ∧
  (∀ (s : State) (i : Instr), s.presented = none → decode (natToBytes 1 (uopCode s).toNat) = .ok i →
    step s = exec i s) ∧
  (∀ s : State, s.presented = none → (s.phase = .idle ∨ s.phase = .done) → step s = .next s)

/-- With no command presented, each phase performs the micro-operation of its name, for the variant of the `variant`
register, or in `INIT` for the variant of the held command (R34, R72, R138; log entry 10). -/
def Obligations.PhaseSelectsOperation : Prop :=
  ∀ s : State, s.presented = none →
    (∀ i, s.phase ≠ .init → phaseOp s.variant s.phase = some i → step s = exec i s) ∧
    (∀ i, s.phase = .init → phaseOp (cmdVariant s.cmd) s.phase = some i → step s = exec i s)

/-- The whole transition table of the sequencer, row by row (R139): the next phase, and the state change besides the
operation's own (a command is presented through the model's input field, log entry 10). -/
def Obligations.PhaseTransitions : Prop :=
  ∀ s t : State, step s = .next t →
    (∀ w, s.presented = some w → (s.phase = .idle ∨ s.phase = .done) ∧ t.cmd = w ∧ t.phase = .init) ∧
    (s.presented = none →
      (s.phase = .idle → t = s) ∧
      (s.phase = .init → t.phase = .segFill) ∧
      (s.phase = .segFill → t.phase = .segRoom ∧ t.processed = s.processed) ∧
      (s.phase = .segRoom → t.phase = .expLoad ∧ t.processed = s.processed) ∧
      (s.phase = .segSynth → t.phase = .expLoad ∧ t.processed = s.processed) ∧
      (s.phase = .expLoad → t.phase = .expMix ∧ t.processed = s.processed) ∧
      (s.phase = .expMix → t.processed = s.processed ∧
        (t.t.toNat < s.variant.nr ∧ t.phase = .expMix ∨ t.t.toNat = s.variant.nr ∧ t.phase = .rndSeed)) ∧
      (s.phase = .rndSeed → t.phase = .rndStep ∧ t.processed = s.processed) ∧
      (s.phase = .rndStep → t.processed = s.processed ∧
        (t.t.toNat < s.variant.nr ∧ t.phase = .rndStep ∨ t.t.toNat = s.variant.nr ∧ t.phase = .accAdd)) ∧
      (s.phase = .accAdd →
        (s.terminal = true → t.phase = .serOut ∧ t.processed = s.processed) ∧
        (s.terminal = false → t.processed.toNat = s.processed.toNat + s.variant.bs ∧
          t.phase = if s.synthPending = true then .segSynth else .segFill)) ∧
      (s.phase = .serOut → t.phase = .done ∧ t.processed = s.processed) ∧
      (s.phase = .done → t = s))

/-- Each register has the writers the spec names and no others, over all steps: 10_state.md rules R21 to R46. No step
writes the message (R50). -/
def Obligations.OnlyNamedWritersWrite : Prop :=
  ∀ s t : State, step s = .next t →
    (t.cmd ≠ s.cmd → s.presented ≠ none ∧ (s.phase = .idle ∨ s.phase = .done)) ∧
    (t.variant ≠ s.variant → s.phase = .init) ∧
    (t.messageLength ≠ s.messageLength → s.phase = .init) ∧
    (t.L ≠ s.L → s.phase = .init) ∧
    (t.H ≠ s.H → s.phase = .init ∨ s.phase = .accAdd) ∧
    (t.regs ≠ s.regs → s.phase = .rndSeed ∨ s.phase = .rndStep) ∧
    (t.blk ≠ s.blk → s.phase = .segFill ∨ s.phase = .segRoom ∨ s.phase = .segSynth) ∧
    (t.W ≠ s.W → s.phase = .expLoad ∨ s.phase = .expMix) ∧
    (t.processed ≠ s.processed → s.phase = .init ∨ s.phase = .accAdd) ∧
    (t.t ≠ s.t → s.phase = .expLoad ∨ s.phase = .expMix ∨ s.phase = .rndSeed ∨ s.phase = .rndStep) ∧
    (t.terminal ≠ s.terminal → s.phase = .init ∨ s.phase = .segRoom ∨ s.phase = .segSynth) ∧
    (t.room ≠ s.room → s.phase = .segRoom) ∧
    (t.synthPending ≠ s.synthPending → s.phase = .init ∨ s.phase = .segRoom ∨ s.phase = .segSynth) ∧
    (t.digestOut ≠ s.digestOut → s.phase = .serOut) ∧
    (t.presented ≠ s.presented → s.presented ≠ none ∧ (s.phase = .idle ∨ s.phase = .done)) ∧
    t.msg = s.msg

/-! ## The command and INIT -/

/-- DIGEST.S and DIGEST.L in `IDLE` or `DONE` are accepted for every length: the command word is held, `phase` becomes
`INIT`, so `done` is 0 and `busy` is 1, and nothing else of the core changes (R137, acceptance; R46). The presented
word is taken (the model's own input field, log entry 10). -/
def Obligations.CommandAccepted : Prop :=
  ∀ (v : Variant) (len : BitVec 64) (s : State), (s.phase = .idle ∨ s.phase = .done) →
    ∃ t, exec (digestCmd v len) s = .next t ∧
      t = { s with cmd := t.cmd, phase := .init, presented := none } ∧
      t.cmd.toNat = (match v with | .short => 0 | .long => 2 ^ 64) + len.toNat ∧
      doneFlag t = false ∧ busyFlag t = true

/-- A command while `busy = 1` has no meaning and is refused, whatever the command, by the operation and by the step
(R143). -/
def Obligations.CommandWhileBusyRefused : Prop :=
  ∀ s : State, busyFlag s = true →
    (∀ (v : Variant) (len : BitVec 64), exec (digestCmd v len) s = .refused .commandWhileBusy) ∧
    (∀ w, s.presented = some w → step s = .refused .commandWhileBusy)

/-- INIT latches the command, clamps the length, loads the initial state and clears the cursor and the flags; it
writes nothing else (pseudocode of R138; R23; the frame is R138's Writes list). -/
def Obligations.InitStartsComputation : Prop :=
  ∀ (v : Variant) (s : State), cmdVariant s.cmd = v →
    ∃ t, exec (initOp v) s = .next t ∧
      t = { s with variant := v, messageLength := t.messageLength, L := t.L, H := t.H, processed := 0,
                   terminal := false, synthPending := false, phase := .segFill } ∧
      t.messageLength.toNat = s.cmd.toNat % 2 ^ 64 ∧
      t.L.toNat = min t.messageLength.toNat Config.maxLen ∧
      ∀ i < 8, wordAt v t.H i = initialWord v i

/-- The clamp is silent (R156): two commands of one variant that both reach or exceed `MAX_LEN` leave, after INIT, states
that differ in `cmd` and `message_length` only, and `L = MAX_LEN`; at or below `MAX_LEN` the length is kept. It holds for every
admissible `MAX_LEN` (log entry 5). -/
def Obligations.ClampIsSilent : Prop :=
  ∀ (v : Variant) (s : State), cmdVariant s.cmd = v →
    ((cmdLength s.cmd).toNat ≤ Config.maxLen →
      ∃ t, exec (initOp v) s = .next t ∧ t.L = cmdLength s.cmd) ∧
    (∀ w : BitVec 65, cmdVariant w = v → Config.maxLen ≤ (cmdLength s.cmd).toNat → Config.maxLen ≤ (cmdLength w).toNat →
      ∃ t t', exec (initOp v) s = .next t ∧ exec (initOp v) { s with cmd := w } = .next t' ∧
        t.L.toNat = Config.maxLen ∧ t' = { t with cmd := t'.cmd, messageLength := t'.messageLength })

/-- `1000000 <= MAX_LEN < 2^61` (R9), whatever the implementation chose; a choice outside the range is refused (U3) and
replaced, which is the model's form (log entry 5). -/
def Obligations.MaxLenInRange : Prop :=
  1000000 ≤ Config.maxLen ∧ Config.maxLen < 2 ^ 61

/-! ## The Padder/Segmenter -/

/-- SEG.FILL where the message bytes of the block are available: byte `i` of the block is the message byte at
`processed + i` below `L`, the marker at `L`, zero beyond; nothing else of the state changes but `phase` (R90). The last clause,
that storage beyond the variant's block is left, is the model's choice and no rule's (log entry 2). -/
def Obligations.SegFillBuildsRawBlock : Prop :=
  ∀ (v : Variant) (s : State),
    (∀ i < v.bs, s.processed.toNat + i < s.L.toNat → (s.msg.read (s.processed.toNat + i)).isSome = true) →
    ∃ t, exec (segFillOp v) s = .next t ∧
      t = { s with blk := t.blk, phase := .segRoom } ∧
      (∀ i < v.bs,
        (s.processed.toNat + i < s.L.toNat → s.msg.read (s.processed.toNat + i) = some (byteAt t.blk i)) ∧
        (s.processed.toNat + i = s.L.toNat → byteAt t.blk i = 0x80) ∧
        (s.L.toNat < s.processed.toNat + i → byteAt t.blk i = 0x00)) ∧
      ∀ i, v.bs ≤ i → byteAt t.blk i = byteAt s.blk i

/-- SEG.FILL stops exactly where the host has not made a message byte of the block available: the model then refuses
(R67, R172; the host's breach is given no meaning: log entry 6). -/
def Obligations.SegFillRefusesAbsentByte : Prop :=
  ∀ (v : Variant) (s : State),
    exec (segFillOp v) s = .refused .messageByteAbsent ↔
      ∃ i < v.bs, s.processed.toNat + i < s.L.toNat ∧ s.msg.read (s.processed.toNat + i) = none

/-- Every operation reads the message below `L` only: replacing the bytes at and above `L` changes no outcome (R51). -/
def Obligations.MessageReadOnlyBelowLength : Prop :=
  ∀ (i : Instr) (s : State) (m : Memory), (∀ a < s.L.toNat, m.read a = s.msg.read a) →
    (∀ t, exec i s = .next t → exec i { s with msg := m } = .next { t with msg := m }) ∧
    (∀ r, exec i s = .refused r → exec i { s with msg := m } = .refused r) ∧
    (∀ f, exec i s = .fault f → exec i { s with msg := m } = .fault f)

/-- SEG.ROOM (R91) with its trailer (R92): the three outcomes, with the last `LF(v)` bytes of the block where there is
room (zeros, then the 64-bit bit length big-endian), and what is left unchanged in each. That storage beyond the
variant's block is left too is the model's choice and no rule's (log entry 2). -/
def Obligations.SegRoomDecidesAndFlags : Prop :=
  ∀ (v : Variant) (s : State),
    let e := s.processed.toNat + v.bs
    ∃ t, exec (segRoomOp v) s = .next t ∧
      (s.L.toNat ≤ e ∧ v.lf + 1 ≤ e - s.L.toNat →
        t = { s with blk := t.blk, room := true, terminal := true, phase := .expLoad } ∧
        (∀ j < v.lf - 8, byteAt t.blk (v.bs - v.lf + j) = 0) ∧
        (∀ j < 8, byteAt t.blk (v.bs - 8 + j) = BitVec.ofNat 8 (s.L.toNat * 8 % 2 ^ 64 / 256 ^ (7 - j))) ∧
        (∀ i < v.bs - v.lf, byteAt t.blk i = byteAt s.blk i) ∧
        ∀ i, v.bs ≤ i → byteAt t.blk i = byteAt s.blk i) ∧
      (s.L.toNat ≤ e ∧ ¬(v.lf + 1 ≤ e - s.L.toNat) →
        t = { s with room := false, synthPending := true, phase := .expLoad }) ∧
      (e < s.L.toNat → t = { s with room := false, phase := .expLoad })

/-- SEG.SYNTH (R93): the block is zero up to the trailer but for the marker at byte 0 exactly when `L mod B = 0`, then
the trailer; `terminal` becomes 1, `synth_pending` 0; nothing else changes but `phase`. The last clause, that storage
beyond the variant's block is left, is the model's choice and no rule's (log entry 2). -/
def Obligations.SegSynthBuildsPaddingBlock : Prop :=
  ∀ (v : Variant) (s : State),
    ∃ t, exec (segSynthOp v) s = .next t ∧
      t = { s with blk := t.blk, terminal := true, synthPending := false, phase := .expLoad } ∧
      (byteAt t.blk 0 = if s.L.toNat % v.bs = 0 then 0x80 else 0x00) ∧
      (∀ i, 0 < i → i < v.bs - 8 → byteAt t.blk i = 0x00) ∧
      (∀ j < 8, byteAt t.blk (v.bs - 8 + j) = BitVec.ofNat 8 (s.L.toNat * 8 % 2 ^ 64 / 256 ^ (7 - j))) ∧
      ∀ i, v.bs ≤ i → byteAt t.blk i = byteAt s.blk i

/-- The synthetic block is the block that SEG.FILL followed by SEG.ROOM would build at the advanced cursor (R96, the spec's
own inference). -/
def Obligations.SynthBlockIsFillThenRoom : Prop :=
  ∀ (v : Variant) (s : State), 0 < s.L.toNat → s.processed.toNat % v.bs = 0 → s.L.toNat ≤ s.processed.toNat →
    s.processed.toNat < s.L.toNat + v.bs →
    ∃ t1 t2 t3, exec (segFillOp v) s = .next t1 ∧ exec (segRoomOp v) t1 = .next t2 ∧ exec (segSynthOp v) s = .next t3 ∧
      t2.terminal = true ∧ t3.terminal = true ∧ t2.blk = t3.blk

/-- The synthetic block occurs exactly at the lengths of R97: at the last raw block SEG.ROOM asks for one exactly when
`L mod B > B - F - 1`, or `L mod B = 0` with `L > 0`; then in the numbers of R97, Short 56 to 63 and Long 112 to 127 (the
spec's own inference). -/
def Obligations.SyntheticBlockExactlyAtEdgeLengths : Prop :=
  ∀ (v : Variant) (s : State), s.processed.toNat % v.bs = 0 →
    (s.processed.toNat < s.L.toNat ∨ s.processed.toNat = 0 ∧ s.L.toNat = 0) →
    s.L.toNat ≤ s.processed.toNat + v.bs → s.synthPending = false →
    ∃ t, exec (segRoomOp v) s = .next t ∧
      (t.synthPending = true ↔
        v.bs - v.lf - 1 < s.L.toNat % v.bs ∨ s.L.toNat % v.bs = 0 ∧ 0 < s.L.toNat) ∧
      (t.synthPending = true ↔
        match v with
        | .short => 56 ≤ s.L.toNat % 64 ∧ s.L.toNat % 64 ≤ 63 ∨ s.L.toNat % 64 = 0 ∧ 0 < s.L.toNat
        | .long => 112 ≤ s.L.toNat % 128 ∧ s.L.toNat % 128 ≤ 127 ∨ s.L.toNat % 128 = 0 ∧ 0 < s.L.toNat)

/-- The padded message has whole blocks and is the smallest that leaves room (R74): `N*B = L + 1 + Z + F` with
`0 <= Z <= B - 1`, and `N` is `Nraw` or `Nraw + 1` (R94). Then R74's formula with the parameters written out, and `N` and
`Z` at R74's boundary lengths. -/
def Obligations.PaddedLengthIsSmallestMultiple : Prop :=
  (∀ (v : Variant) (L : Nat),
    numBlocks v L * v.bs = L + 1 + numZeros v L + v.lf ∧ numZeros v L ≤ v.bs - 1 ∧
    (∀ n, L + 1 + v.lf ≤ n * v.bs → numBlocks v L ≤ n) ∧
    numBlocks v L = (if v.lf + 1 ≤ numRawBlocks v L * v.bs - L then numRawBlocks v L else numRawBlocks v L + 1)) ∧
  (∀ L : Nat,
    numBlocks .short L * 64 = L + 1 + numZeros .short L + 8 ∧ numZeros .short L ≤ 63 ∧
    numBlocks .long L * 128 = L + 1 + numZeros .long L + 16 ∧ numZeros .long L ≤ 127) ∧
  [0, 55, 56, 63, 64, 65, 119, 120].map (fun L => (numBlocks .short L, numZeros .short L)) =
    [(1, 55), (1, 0), (2, 63), (2, 56), (2, 55), (2, 54), (2, 0), (3, 63)] ∧
  [0, 111, 112, 127, 128, 129, 239, 240].map (fun L => (numBlocks .long L, numZeros .long L)) =
    [(1, 111), (1, 0), (2, 127), (2, 112), (2, 111), (2, 110), (2, 0), (3, 127)]

/-- The contract of the Padder/Segmenter (R95), block by block. A raw block due at cursor `k*B` is block `k` of the padded
message after SEG.FILL and SEG.ROOM, and it is terminal exactly when it is the last one; a synthetic block due at cursor
`k*B` is block `k`, the last one. `L < 2^61` is R9's bound. That the steps meet the contract is the spec's own inference. -/
def Obligations.BlocksArePaddedMessage : Prop :=
  ∀ (v : Variant) (s : State) (k : Nat), s.processed.toNat = k * v.bs → s.L.toNat < 2 ^ 61 →
    (rawBlockDue s → messageAvailable s s.L.toNat →
      ∃ t1 t2, exec (segFillOp v) s = .next t1 ∧ exec (segRoomOp v) t1 = .next t2 ∧
        (∀ i < v.bs, byteAt t2.blk i = padBlock v (messageOf s) s.L.toNat k i) ∧
        (t2.terminal = true ↔ k + 1 = numBlocks v s.L.toNat)) ∧
    (0 < s.L.toNat → s.L.toNat ≤ s.processed.toNat → s.processed.toNat ≤ s.L.toNat + v.lf →
      ∃ t, exec (segSynthOp v) s = .next t ∧
        (∀ i < v.bs, byteAt t.blk i = padBlock v (messageOf s) s.L.toNat k i) ∧
        k + 1 = numBlocks v s.L.toNat)

/-! ## The Schedule Expander -/

/-- EXP.LOAD (R105, R56): schedule words 0 to 15 are the big-endian values of `WB(v)` consecutive block bytes, `t` is 16;
the other words and the rest of the state are unchanged but for `phase`. -/
def Obligations.ExpLoadPacksNativeWords : Prop :=
  ∀ (v : Variant) (s : State),
    ∃ t, exec (expLoadOp v) s = .next t ∧
      t = { s with W := t.W, t := 16, phase := .expMix } ∧
      (∀ i < 16, (wordAt v t.W i).toNat = beNat v.wb (fun j => byteAt s.blk (v.wb * i + j))) ∧
      ∀ i, 16 ≤ i → t.W[i]? = s.W[i]?

/-- EXP.MIX for `16 <= t <= NR(v)-1` (R106): the new schedule word on natural numbers modulo `2^w`, `t` advanced, the next
phase; the other words and the rest of the state are unchanged. -/
def Obligations.ExpMixComputesNextWord : Prop :=
  ∀ (v : Variant) (s : State), 16 ≤ s.t.toNat → s.t.toNat ≤ v.nr - 1 →
    ∃ t, exec (expMixOp v) s = .next t ∧
      t = { s with W := t.W, t := t.t, phase := t.phase } ∧
      (wordAt v t.W s.t.toNat).toNat =
        ((sigma1 v (wordAt v s.W (s.t.toNat - 2))).toNat + (wordAt v s.W (s.t.toNat - 7)).toNat +
          (sigma0 v (wordAt v s.W (s.t.toNat - 15))).toNat + (wordAt v s.W (s.t.toNat - 16)).toNat) % 2 ^ v.ww ∧
      t.t.toNat = s.t.toNat + 1 ∧
      (t.phase = if t.t.toNat = v.nr then .rndSeed else .expMix) ∧
      ∀ i, i ≠ s.t.toNat → t.W[i]? = s.W[i]?

/-- Outside the preconditions of R106 and R116 the model stops by name: EXP.MIX for `t < 16` or `t >= NR(v)`, RND.STEP for
`t >= NR(v)`, and ACC.ADD where the cursor would pass `2^64 - 1` (R32). The spec gives those cases no effect and the
invariant rules them out (log entry 9). -/
def Obligations.PreconditionStops : Prop :=
  ∀ (v : Variant) (s : State),
    (exec (expMixOp v) s = .fault .scheduleIndexOutOfRange ↔ s.t.toNat < 16 ∨ v.nr ≤ s.t.toNat) ∧
    (exec (rndStepOp v) s = .fault .roundIndexOutOfRange ↔ v.nr ≤ s.t.toNat) ∧
    (exec (accAddOp v) s = .fault .cursorOverflow ↔
      s.terminal = false ∧ 2 ^ 64 ≤ s.processed.toNat + v.bs)

/-- `ROTR_n` and `SHR_n` bit by bit, for every width and every `0 < n < w` (R111, which the spec supplies from general
knowledge: G7, log entry 3). -/
def Obligations.RotateAndShiftBits : Prop :=
  ∀ (w n : Nat) (x : BitVec w), 0 < n → n < w → ∀ i < w,
    (rotr n x).getLsbD i = x.getLsbD ((i + n) % w) ∧
    (shr n x).getLsbD i = (if i + n < w then x.getLsbD (i + n) else false)

/-- `σ0` and `σ1` of both variants bit by bit, the amounts written out: two rotations and a shift combined by exclusive or
(R107, R108, R109, R110, R112; the shape is from general knowledge: G5, log entry 3). -/
def Obligations.SmallSigmaBits : Prop :=
  (∀ (x : Word .short) (i : Nat), i < 32 →
    (sigma0 .short x).getLsbD i =
      ((x.getLsbD ((i + 7) % 32) ^^ x.getLsbD ((i + 18) % 32)) ^^ (if i + 3 < 32 then x.getLsbD (i + 3) else false)) ∧
    (sigma1 .short x).getLsbD i =
      ((x.getLsbD ((i + 17) % 32) ^^ x.getLsbD ((i + 19) % 32)) ^^ (if i + 10 < 32 then x.getLsbD (i + 10) else false))) ∧
  (∀ (x : Word .long) (i : Nat), i < 64 →
    (sigma0 .long x).getLsbD i =
      ((x.getLsbD ((i + 1) % 64) ^^ x.getLsbD ((i + 8) % 64)) ^^ (if i + 7 < 64 then x.getLsbD (i + 7) else false)) ∧
    (sigma1 .long x).getLsbD i =
      ((x.getLsbD ((i + 19) % 64) ^^ x.getLsbD ((i + 61) % 64)) ^^ (if i + 6 < 64 then x.getLsbD (i + 6) else false)))

/-- The whole schedule (R105, R106, R113): from `EXP_LOAD`, EXP.LOAD and all `NR(v) - 16` EXP.MIX steps lead to `RND_SEED`
with the schedule that is a function of the block's bytes, and nothing else changed but `t`. -/
def Obligations.ScheduleCompleted : Prop :=
  ∀ s : State, s.phase = .expLoad → s.presented = none →
    ∃ t, Host.Core.run core (1 + (s.variant.nr - 16)) s = .next t ∧
      t = { s with W := t.W, t := t.t, phase := .rndSeed } ∧ t.t.toNat = s.variant.nr ∧
      ∀ i < s.variant.nr, wordAt s.variant t.W i = (scheduleOf s.variant (byteAt s.blk)).getD i 0

/-! ## The Compression Round -/

/-- `Ch` and `Maj` bit by bit, any width (R117, R118). -/
def Obligations.ChooseAndMajorityBits : Prop :=
  ∀ (w : Nat) (x y z : BitVec w) (i : Nat), i < w →
    (ch x y z).getLsbD i = (if x.getLsbD i then y.getLsbD i else z.getLsbD i) ∧
    (maj x y z).getLsbD i =
      decide (2 ≤ (x.getLsbD i).toNat + (y.getLsbD i).toNat + (z.getLsbD i).toNat)

/-- `Σ0` and `Σ1` of both variants bit by bit, the amounts written out: three rotations combined by exclusive or (R119 to
R123; the shape is from general knowledge: G6, log entry 3); both send 0 to 0 and the all-ones word to itself. -/
def Obligations.BigSigmaBits : Prop :=
  (∀ (x : Word .short) (i : Nat), i < 32 →
    (bigSigma0 .short x).getLsbD i =
      ((x.getLsbD ((i + 2) % 32) ^^ x.getLsbD ((i + 13) % 32)) ^^ x.getLsbD ((i + 22) % 32)) ∧
    (bigSigma1 .short x).getLsbD i =
      ((x.getLsbD ((i + 6) % 32) ^^ x.getLsbD ((i + 11) % 32)) ^^ x.getLsbD ((i + 25) % 32))) ∧
  (∀ (x : Word .long) (i : Nat), i < 64 →
    (bigSigma0 .long x).getLsbD i =
      ((x.getLsbD ((i + 28) % 64) ^^ x.getLsbD ((i + 34) % 64)) ^^ x.getLsbD ((i + 39) % 64)) ∧
    (bigSigma1 .long x).getLsbD i =
      ((x.getLsbD ((i + 14) % 64) ^^ x.getLsbD ((i + 18) % 64)) ^^ x.getLsbD ((i + 41) % 64))) ∧
  ∀ v : Variant, bigSigma0 v 0 = 0 ∧ bigSigma1 v 0 = 0 ∧
    bigSigma0 v (BitVec.allOnes v.ww) = BitVec.allOnes v.ww ∧ bigSigma1 v (BitVec.allOnes v.ww) = BitVec.allOnes v.ww

/-- RND.SEED (R115): the registers take the running state in the correspondence `a` = 0 to `h` = 7, `t` is 0; `H` and
everything else are unchanged but for `phase`. -/
def Obligations.RndSeedCopiesRunningState : Prop :=
  ∀ (v : Variant) (s : State),
    ∃ t, exec (rndSeedOp v) s = .next t ∧
      t = { s with regs := t.regs, t := 0, phase := .rndStep } ∧
      ∀ i < 8, (regWords v t.regs).toList.getD i 0 = wordAt v s.H i

/-- RND.STEP for `0 <= t <= NR(v)-1` (R116, 90_conflicts.md C2): `T1` and `T2` on natural numbers, each sum modulo `2^w`, the
shift of the register chain from the values before the step, `t` advanced, the next phase; nothing else changes. -/
def Obligations.RndStepPerformsRound : Prop :=
  ∀ (v : Variant) (s : State), s.t.toNat ≤ v.nr - 1 →
    let r := regWords v s.regs
    let T1 := (r.h.toNat + (bigSigma1 v r.e).toNat + (ch r.e r.f r.g).toNat + (roundConst v s.t.toNat).toNat +
      (wordAt v s.W s.t.toNat).toNat) % 2 ^ v.ww
    let T2 := ((bigSigma0 v r.a).toNat + (maj r.a r.b r.c).toNat) % 2 ^ v.ww
    ∃ t, exec (rndStepOp v) s = .next t ∧
      t = { s with regs := t.regs, t := t.t, phase := t.phase } ∧
      (regWords v t.regs).a.toNat = (T1 + T2) % 2 ^ v.ww ∧
      (regWords v t.regs).b = r.a ∧ (regWords v t.regs).c = r.b ∧ (regWords v t.regs).d = r.c ∧
      (regWords v t.regs).e.toNat = (r.d.toNat + T1) % 2 ^ v.ww ∧
      (regWords v t.regs).f = r.e ∧ (regWords v t.regs).g = r.f ∧ (regWords v t.regs).h = r.g ∧
      t.t.toNat = s.t.toNat + 1 ∧ (t.phase = if t.t.toNat = v.nr then .accAdd else .rndStep)

/-- All the rounds (R115, R116, R125, R126): from `RND_SEED`, RND.SEED and `NR(v)` RND.STEP steps lead to `ACC_ADD` with the
registers that are a function of `H` and the schedule, and nothing else changed but `t`. -/
def Obligations.RoundsCompleted : Prop :=
  ∀ s : State, s.phase = .rndSeed → s.presented = none →
    ∃ t, Host.Core.run core (1 + s.variant.nr) s = .next t ∧
      t = { s with regs := t.regs, t := t.t, phase := .accAdd } ∧ t.t.toNat = s.variant.nr ∧
      regWords s.variant t.regs =
        roundsOf s.variant ((List.range s.variant.nr).map (wordAt s.variant s.W)) s.variant.nr (stateWords s.variant s.H)

/-- The constants the machine looks up are what R28 to R31 and R124 say: `K_v[t]` of every round and `H0_v[i]` of every index
are the first `w` bits of the fractional parts of the cube roots of the first 64 or 80 primes, and of the square roots of
the first 8. For a prime `p` and the root's integer part `q` (the only `q` in range), `q * 2^w + K` is the integer root of
`p` scaled by the power of `2^w`. The lookups are the entries of the four tables, whose lengths are `NR(v)` and 8. The spec
supplies the tables from general knowledge (G1 to G4, log entry 3). -/
def Obligations.ConstantTablesAreRoots : Prop :=
  let primes := (List.range 410).filter (fun n => 2 ≤ n && (List.range n).all (fun d => d < 2 || n % d != 0))
  primes.length = 80 ∧ k256.length = 64 ∧ k512.length = 80 ∧ h0Short.length = 8 ∧ h0Long.length = 8 ∧
  (∀ t < 64, k256[t]? = some (roundConst .short t)) ∧ (∀ t < 80, k512[t]? = some (roundConst .long t)) ∧
  (∀ i < 8, h0Short[i]? = some (initialWord .short i)) ∧ (∀ i < 8, h0Long[i]? = some (initialWord .long i)) ∧
  (∀ t < 64, ∃ q < 8,
    (q * 2 ^ 32 + (roundConst .short t).toNat) ^ 3 ≤ primes.getD t 0 * 2 ^ 96 ∧
    primes.getD t 0 * 2 ^ 96 < (q * 2 ^ 32 + (roundConst .short t).toNat + 1) ^ 3) ∧
  (∀ t < 80, ∃ q < 8,
    (q * 2 ^ 64 + (roundConst .long t).toNat) ^ 3 ≤ primes.getD t 0 * 2 ^ 192 ∧
    primes.getD t 0 * 2 ^ 192 < (q * 2 ^ 64 + (roundConst .long t).toNat + 1) ^ 3) ∧
  (∀ i < 8, ∃ q < 8,
    (q * 2 ^ 32 + (initialWord .short i).toNat) ^ 2 ≤ primes.getD i 0 * 2 ^ 64 ∧
    primes.getD i 0 * 2 ^ 64 < (q * 2 ^ 32 + (initialWord .short i).toNat + 1) ^ 2) ∧
  (∀ i < 8, ∃ q < 8,
    (q * 2 ^ 64 + (initialWord .long i).toNat) ^ 2 ≤ primes.getD i 0 * 2 ^ 128 ∧
    primes.getD i 0 * 2 ^ 128 < (q * 2 ^ 64 + (initialWord .long i).toNat + 1) ^ 2)

/-! ## The State Accumulator -/

/-- ACC.ADD (R130): each register added into the word of its index modulo `2^w`. With it the transition of R139, which is part
of the operation's meaning in this model (DEDUCED, log entry 14): `SER_OUT` with the cursor kept after a terminal block,
else the cursor advanced by one block and the next block's phase. Nothing else changes. The premise is that the cursor
fits its register, which the invariant gives; `PreconditionStops` says what happens outside it. -/
def Obligations.AccAddFoldsBlock : Prop :=
  ∀ (v : Variant) (s : State), (s.terminal = true ∨ s.processed.toNat + v.bs < 2 ^ 64) →
    ∃ t, exec (accAddOp v) s = .next t ∧
      t = { s with H := t.H, processed := t.processed, phase := t.phase } ∧
      (∀ i < 8, (wordAt v t.H i).toNat =
        ((wordAt v s.H i).toNat + ((regWords v s.regs).toList.getD i 0).toNat) % 2 ^ v.ww) ∧
      (s.terminal = true → t.phase = .serOut ∧ t.processed = s.processed) ∧
      (s.terminal = false → t.processed.toNat = s.processed.toNat + v.bs ∧
        t.phase = if s.synthPending = true then .segSynth else .segFill)

/-- SER.OUT (R131, R58): byte `j` of word `i` big-endian at `n*i + j`, `H[0]` first; `done` becomes 1 and `busy` 0; `H` and
everything else are unchanged. That the storage of `DIG` at and above `DS(v)` is kept is the model's choice and no rule's
(log entry 11): the spec gives those bytes no value (R39), and `DigestReadOnlyWhenDone` says the host reads none. -/
def Obligations.SerOutWritesDigest : Prop :=
  ∀ (v : Variant) (s : State),
    ∃ t, exec (serOutOp v) s = .next t ∧
      t = { s with digestOut := t.digestOut, phase := .done } ∧
      (∀ i < 8, ∀ j < v.wb,
        t.digestOut.read (v.wb * i + j) = some (BitVec.ofNat 8 ((wordAt v s.H i).toNat / 256 ^ (v.wb - 1 - j)))) ∧
      (∀ a, v.ds ≤ a → t.digestOut.read a = s.digestOut.read a) ∧
      doneFlag t = true ∧ busyFlag t = false

/-! ## Status flags, reset and the host -/

/-- `done` is 1 exactly when `phase = DONE`; `busy` is 1 exactly when `phase` is neither `IDLE` nor `DONE`; both are 0 after
reset (R38). -/
def Obligations.DoneAndBusyFollowPhase : Prop :=
  (∀ s : State, (doneFlag s = true ↔ s.phase = .done) ∧
    (busyFlag s = true ↔ s.phase ≠ .idle ∧ s.phase ≠ .done)) ∧
  State.reset.phase = .idle ∧ doneFlag State.reset = false ∧ busyFlag State.reset = false

/-- After hardware reset, also during a computation: `IDLE`, `done = 0`, `busy = 0`, no digest byte has a value, and the
caller's message is untouched (R170). Reset is an act at the boundary, no step (log entry 11); the registers hold the
model's reset values (log entry 1). -/
def Obligations.ResetAbandonsComputation : Prop :=
  ∀ s : State, (hostReset s).phase = .idle ∧ doneFlag (hostReset s) = false ∧ busyFlag (hostReset s) = false ∧
    (∀ i, hostReadDigest (hostReset s) i = none) ∧ (∀ a, (hostReset s).digestOut.read a = none) ∧
    (hostReset s).msg = s.msg ∧ hostReset State.reset = State.reset

/-- The host sees a digest byte only while `done = 1` and only below `DS(v)`: 32 bytes after a Short computation, 64
after a Long one (R39, R65, R176). In `DONE` a step without a command keeps what it sees (R142). -/
def Obligations.DigestReadOnlyWhenDone : Prop :=
  ∀ (s : State) (i : Nat),
    (s.phase ≠ .done → hostReadDigest s i = none) ∧
    ((match s.variant with | .short => 32 | .long => 64) ≤ i → hostReadDigest s i = none) ∧
    (s.phase = .done → i < (match s.variant with | .short => 32 | .long => 64) →
      hostReadDigest s i = s.digestOut.read i) ∧
    (s.phase = .done → s.presented = none →
      ∃ t, step s = .next t ∧ doneFlag t = true ∧ hostReadDigest t i = hostReadDigest s i)

/-! ## The invariant, safety, and the whole computation -/

/-- The invariant holds after reset, with the reset values the model names (log entry 1). -/
def Obligations.ResetMeetsInvariant : Prop := Inv State.reset

/-- Every step keeps the invariant, from every state that has it. -/
def Obligations.StepKeepsInvariant : Prop :=
  ∀ s t : State, Inv s → step s = .next t → Inv t

/-- What the host does at the boundary keeps the invariant: presenting a command, loading a message, a reset
(log entries 10 and 11). -/
def Obligations.HostActsKeepInvariant : Prop :=
  ∀ s : State, Inv s →
    (∀ w, Inv (hostPresent w s)) ∧ Inv (hostReset s) ∧
    (∀ bytes t, hostLoadMessage bytes s = .next t → Inv t ∧ ∀ i, t.msg.read i = bytes[i]?) ∧
    (busyFlag s = true → ∀ bytes, hostLoadMessage bytes s = .refused .messageChangedWhileBusy)

/-- The facts R99 (a), (b) and (c) about every state the invariant admits, and with them the terminal block's trailer. -/
def Obligations.SegmenterFacts : Prop :=
  ∀ s : State, Inv s →
    s.processed.toNat % s.variant.bs = 0 ∧
    (s.phase = .segFill → s.processed.toNat < s.L.toNat ∨ s.processed.toNat = 0 ∧ s.L.toNat = 0) ∧
    ¬(s.terminal = true ∧ s.synthPending = true) ∧
    (s.phase = .serOut ∨ s.phase = .done → s.terminal = true ∧ carriesTrailer s)

/-- Nothing stops the core but a breach of the host's duties (R155, R172): in a state of the invariant a step runs exactly
when the host presents no command while `busy = 1` and has made the bytes the next block takes available. That a breach
is refused is R143's and R67's rule for a model (log entries 6 and 10). -/
def Obligations.StopsOnlyOnHostBreach : Prop :=
  ∀ s : State, Inv s → (runs s ↔ hostKeepsDuties s)

/-- The whole computation (R133, R137, R140, R141): a command presented in `IDLE` or `DONE`, with its message available,
leads after the acceptance and exactly the steps of R140 to `DONE`, `busy = 1` at every state before. The host then reads
the digest of the first `min(message_length, MAX_LEN)` bytes, whatever the state held before and whatever admissible
`MAX_LEN` is (log entry 5). That the acceptance is a step of its own, the first of the `1 +`, is the model's choice (log
entry 10). -/
def Obligations.ComputationReachesDigest : Prop :=
  ∀ (s : State) (w : BitVec 65), (s.phase = .idle ∨ s.phase = .done) → s.presented = some w →
    messageAvailable s (effectiveLength w) →
    (∃ t, Host.Core.run core (1 + computationSteps (cmdVariant w) (effectiveLength w)) s = .next t ∧
      doneFlag t = true ∧
      ∀ i < (cmdVariant w).ds,
        hostReadDigest t i = some (digestOf (cmdVariant w) (messageOf s) (effectiveLength w) i)) ∧
    ∀ n, 0 < n → n < 1 + computationSteps (cmdVariant w) (effectiveLength w) →
      ∃ u, Host.Core.run core n s = .next u ∧ busyFlag u = true

/-- The digest is a function of the variant, the clamped length and the message bytes below it alone (R144, R45, R142): two
cores given commands that agree in these, whatever else their states hold, go through the same phases and show the host
the same digest bytes at every step. -/
def Obligations.DigestIndependentOfEarlierState : Prop :=
  ∀ (s1 s2 : State) (w1 w2 : BitVec 65),
    (s1.phase = .idle ∨ s1.phase = .done) → (s2.phase = .idle ∨ s2.phase = .done) →
    s1.presented = some w1 → s2.presented = some w2 →
    cmdVariant w1 = cmdVariant w2 → effectiveLength w1 = effectiveLength w2 →
    (∀ i < effectiveLength w1, s1.msg.read i = s2.msg.read i) →
    ∀ (n : Nat) (t1 : State), 0 < n → Host.Core.run core n s1 = .next t1 →
      ∃ t2, Host.Core.run core n s2 = .next t2 ∧ t1.phase = t2.phase ∧
        ∀ i, hostReadDigest t1 i = hostReadDigest t2 i

/-! ## The parameters -/

/-- The table of R8, every entry written out, and with it the steps of a raw block of R140 in numbers: 117 for Short, 149 for
Long, and the `N` blocks of a computation counted with them. -/
def Obligations.ParameterTable : Prop :=
  (Variant.ww .short = 32 ∧ Variant.ww .long = 64) ∧ (Variant.wb .short = 4 ∧ Variant.wb .long = 8) ∧
  (Variant.nr .short = 64 ∧ Variant.nr .long = 80) ∧ (Variant.bs .short = 64 ∧ Variant.bs .long = 128) ∧
  (Variant.ds .short = 32 ∧ Variant.ds .long = 64) ∧ (Variant.lf .short = 8 ∧ Variant.lf .long = 16) ∧
  (Variant.lw .short = 8 ∧ Variant.lw .long = 8) ∧
  (Variant.s0 .short = ⟨7, 18, 3⟩ ∧ Variant.s0 .long = ⟨1, 8, 7⟩) ∧
  (Variant.s1 .short = ⟨17, 19, 10⟩ ∧ Variant.s1 .long = ⟨19, 61, 6⟩) ∧
  (Variant.bigS0 .short = ⟨2, 13, 22⟩ ∧ Variant.bigS0 .long = ⟨28, 34, 39⟩) ∧
  (Variant.bigS1 .short = ⟨6, 11, 25⟩ ∧ Variant.bigS1 .long = ⟨14, 18, 41⟩) ∧
  (rawBlockSteps .short = 117 ∧ rawBlockSteps .long = 149) ∧
  ∀ L : Nat,
    computationSteps .short L = 2 + 117 * numRawBlocks .short L + 116 * (numBlocks .short L - numRawBlocks .short L) ∧
    computationSteps .long L = 2 + 149 * numRawBlocks .long L + 148 * (numBlocks .long L - numRawBlocks .long L)

/-! ## The core's read of the message -/

/-- The core's read of the message (R51, R67): at an index below `L` it answers the byte the caller's memory holds; at and
beyond `L` it is refused, not answered, whatever the caller's memory holds there. The message bytes of a raw block are what
this read answers, and no operation and no step makes a read beyond `L`. Below `L` an absent byte is refused by a name of
its own (log entry 6). -/
def Obligations.MessageReadRefusedBeyondLength : Prop :=
  (∀ (s : State) (idx : Nat) (b : Byte), readMessage s idx = .ok b ↔ idx < s.L.toNat ∧ s.msg.read idx = some b) ∧
  (∀ (s : State) (idx : Nat), readMessage s idx = .error .messageReadBeyondLength ↔ s.L.toNat ≤ idx) ∧
  (∀ (s : State) (idx : Nat),
    readMessage s idx = .error .messageByteAbsent ↔ idx < s.L.toNat ∧ s.msg.read idx = none) ∧
  (∀ (v : Variant) (s t : State), exec (segFillOp v) s = .next t →
    ∀ i < v.bs, s.processed.toNat + i < s.L.toNat →
      readMessage s (s.processed.toNat + i) = .ok (byteAt t.blk i)) ∧
  (∀ (i : Instr) (s : State), exec i s ≠ .refused .messageReadBeyondLength) ∧
  ∀ s : State, step s ≠ .refused .messageReadBeyondLength
end

