-- ==== Sys2Proof/Laws/Memory.lean ====
section
/-!
SUPPORT. The laws of the byte spaces: a read after a write, the canonical form, ranges of writes, a loaded message.
-/

namespace Sys2Proof.Machine

@[simp] theorem Memory.read_nil (a : Nat) : Memory.read [] a = none := rfl

theorem Memory.read_write_same (m : Memory) (a : Nat) (b : Byte) : (m.write a b).read a = some b := by
  induction m with
  | nil => simp [Memory.write, Memory.read]
  | cons c rest ih =>
    simp only [Memory.write]
    split
    · simp [Memory.read]
    · split
      · simp [Memory.read]
      · simp only [Memory.read]
        rw [if_neg (by omega)]
        exact ih

theorem Memory.read_write_other (m : Memory) {a a' : Nat} (b : Byte) (h : a' ≠ a) :
    (m.write a b).read a' = m.read a' := by
  induction m with
  | nil => simp [Memory.write, Memory.read, Ne.symm h]
  | cons c rest ih =>
    simp only [Memory.write]
    split
    · simp [Memory.read, Ne.symm h]
    · split
      · next h1 => simp [Memory.read, Ne.symm h, ← h1]
      · simp only [Memory.read, ih]

theorem Memory.mem_write {m : Memory} {a : Nat} {b : Byte} {c : Host.Cell} (h : c ∈ m.write a b) :
    c = (a, b) ∨ c ∈ m := by
  induction m with
  | nil => simpa [Memory.write] using h
  | cons d rest ih =>
    simp only [Memory.write] at h
    split at h
    · simpa using h
    · split at h
      · rcases List.mem_cons.1 h with h | h
        · exact .inl h
        · exact .inr (List.mem_cons_of_mem _ h)
      · rcases List.mem_cons.1 h with h | h
        · exact .inr (h ▸ List.mem_cons_self)
        · exact (ih h).imp id (List.mem_cons_of_mem _)

/-- A write keeps the canonical form. -/
theorem Memory.wf_write {m : Memory} (hm : m.wf) (a : Nat) (b : Byte) : (m.write a b).wf := by
  induction m with
  | nil => simp [Memory.write, Memory.wf]
  | cons c rest ih =>
    obtain ⟨hc, hrest⟩ := List.pairwise_cons.1 hm
    simp only [Memory.write]
    split
    · next h =>
      refine List.pairwise_cons.2 ⟨fun d hd => ?_, hm⟩
      rcases List.mem_cons.1 hd with rfl | hd
      · exact h
      · exact Nat.lt_trans h (hc d hd)
    · split
      · next h => exact List.pairwise_cons.2 ⟨fun d hd => h ▸ hc d hd, hrest⟩
      · refine List.pairwise_cons.2 ⟨fun d hd => ?_, ih hrest⟩
        rcases Memory.mem_write hd with rfl | hd
        · show c.1 < a
          omega
        · exact hc d hd

theorem Memory.writeUpTo_succ (m : Memory) (n : Nat) (f : Nat → Byte) :
    m.writeUpTo (n + 1) f = (m.writeUpTo n f).write n (f n) := by
  simp [Memory.writeUpTo, List.range_succ]

theorem Memory.read_writeUpTo (m : Memory) (n : Nat) (f : Nat → Byte) (a : Nat) :
    (m.writeUpTo n f).read a = if a < n then some (f a) else m.read a := by
  induction n with
  | zero => simp [Memory.writeUpTo]
  | succ n ih =>
    rw [Memory.writeUpTo_succ]
    by_cases h : a = n
    · subst h
      simp [Memory.read_write_same]
    · rw [Memory.read_write_other _ _ h, ih]
      exact if_congr (by omega) rfl rfl

theorem Memory.wf_writeUpTo {m : Memory} (hm : m.wf) (n : Nat) (f : Nat → Byte) : (m.writeUpTo n f).wf := by
  induction n with
  | zero => exact hm
  | succ n ih => exact Memory.writeUpTo_succ m n f ▸ Memory.wf_write ih n _

theorem Memory.mem_writeUpTo {m : Memory} {n : Nat} {f : Nat → Byte} {c : Host.Cell} (h : c ∈ m.writeUpTo n f) :
    c.1 < n ∨ c ∈ m := by
  induction n with
  | zero => exact .inr h
  | succ n ih =>
    rcases Memory.mem_write (Memory.writeUpTo_succ m n f ▸ h) with rfl | h
    · exact .inl (Nat.lt_succ_self n)
    · exact (ih h).imp (fun h => Nat.lt_succ_of_lt h) id

theorem Memory.ofBytes_ge {k : Nat} {bs : List Byte} {c : Host.Cell} (h : c ∈ Memory.ofBytes k bs) : k ≤ c.1 := by
  induction bs generalizing k with
  | nil => simp [Memory.ofBytes] at h
  | cons b rest ih =>
    rcases List.mem_cons.1 h with rfl | h
    · exact Nat.le_refl k
    · exact Nat.le_of_succ_le (ih h)

/-- A loaded message is in canonical form. -/
theorem Memory.wf_ofBytes (k : Nat) (bs : List Byte) : (Memory.ofBytes k bs).wf := by
  induction bs generalizing k with
  | nil => exact List.Pairwise.nil
  | cons b rest ih => exact List.pairwise_cons.2 ⟨fun c hc => Memory.ofBytes_ge hc, ih (k + 1)⟩

theorem Memory.read_ofBytes (k : Nat) (bs : List Byte) (i : Nat) : (Memory.ofBytes k bs).read (k + i) = bs[i]? := by
  induction bs generalizing k i with
  | nil => simp [Memory.ofBytes]
  | cons b rest ih =>
    cases i with
    | zero => simp [Memory.ofBytes, Memory.read]
    | succ i =>
      have := ih (k + 1) i
      rw [show k + 1 + i = k + (i + 1) by omega] at this
      simp [Memory.ofBytes, Memory.read, this]

end Sys2Proof.Machine
end

