-- ==== Sys2Proof/Laws/Params.lean ====
section
/-!
SUPPORT. How the parameters of a variant relate to each other, and that `MAX_LEN` passes its own check.
-/

namespace Sys2Proof

theorem Variant.wb_eight (v : Variant) : 8 * v.wb = v.ww := by cases v <;> rfl

theorem Variant.wb_pos (v : Variant) : 0 < v.wb := by cases v <;> decide

theorem Variant.ww_le (v : Variant) : v.ww ≤ 64 := by cases v <;> decide

theorem Variant.bs_words (v : Variant) : v.wb * 16 = v.bs := by cases v <;> rfl

theorem Variant.ds_words (v : Variant) : v.wb * 8 = v.ds := by cases v <;> rfl

theorem Variant.bs_pos (v : Variant) : 0 < v.bs := by cases v <;> decide

theorem Variant.bs_le (v : Variant) : v.bs ≤ 128 := by cases v <;> decide

theorem Variant.ds_le (v : Variant) : v.ds ≤ 64 := by cases v <;> decide

theorem Variant.nr_le (v : Variant) : v.nr ≤ 80 := by cases v <;> decide

theorem Variant.nr_gt (v : Variant) : 16 < v.nr := by cases v <;> decide

theorem Variant.lf_lt (v : Variant) : v.lf + 1 ≤ v.bs := by cases v <;> decide

theorem Variant.lf_ge (v : Variant) : 8 ≤ v.lf := by cases v <;> decide

theorem Variant.lw_eq (v : Variant) : v.lw = 8 := by cases v <;> rfl

theorem Config.maxLenOk_maxLen : Config.maxLenOk Config.maxLen = true := by
  unfold Config.maxLen
  split
  · assumption
  · decide

end Sys2Proof
end

