-- ==== Sys2Proof/Laws/Operands.lean ====
section
/-!
SUPPORT. The laws of the storage cells: a word read back from the cell it was written to, and the bytes of a written block.
-/

namespace Sys2Proof.Machine

@[simp] theorem fromSlot_toSlot (v : Variant) (x : Word v) : fromSlot v (toSlot v x) = x := by
  have h := v.ww_le
  apply BitVec.eq_of_toNat_eq
  have hx := x.isLt
  have h2 : (2 : Nat) ^ v.ww ≤ 2 ^ 64 := Nat.pow_le_pow_right (by decide) h
  simp only [fromSlot, toSlot, BitVec.toNat_setWidth]
  rw [Nat.mod_eq_of_lt (a := x.toNat) (by omega), Nat.mod_eq_of_lt hx]

@[simp] theorem regWords_regSlots (v : Variant) (r : Oct (Word v)) : regWords v (regSlots v r) = r := by
  simp [regWords, regSlots, Oct.map]

@[simp] theorem stateWords_stateSlots (v : Variant) (o : Oct (Word v)) : stateWords v (stateSlots v o) = o := by
  simp [stateWords, stateSlots, wordAt]

/-- A write of one schedule word: the word is read back, every other cell is left. -/
theorem wordAt_set_same (v : Variant) (W : Vector Slot 80) (t : Nat) (x : Word v) (h : t < 80) :
    wordAt v (W.setIfInBounds t (toSlot v x)) t = x := by
  simp [wordAt, h]

theorem getElem?_set_other (W : Vector Slot 80) {t i : Nat} (x : Slot) (h : i ≠ t) :
    (W.setIfInBounds t x)[i]? = W[i]? := by
  rw [Vector.getElem?_setIfInBounds_ne (Ne.symm h)]

/-- A written block: the variant's bytes are those given, the storage beyond is left. -/
theorem byteAt_setBlock (v : Variant) (blk : Vector Byte 128) (f : Nat → Byte) (i : Nat) :
    byteAt (setBlock v blk f) i = if i < v.bs then f i else byteAt blk i := by
  have hb := v.bs_le
  by_cases h : i < 128
  · simp [byteAt, setBlock, h]
  · rw [if_neg (by omega)]
    simp [byteAt, h]

theorem blk_ext {x y : Vector Byte 128} (h : ∀ i < 128, byteAt x i = byteAt y i) : x = y := by
  apply Vector.ext
  intro i hi
  simpa [byteAt, hi] using h i hi

end Sys2Proof.Machine
end

