-- ==== Sys2Proof/Laws/State.lean ====
section
/-!
SUPPORT. One lemma per field per update of the state: what a named update writes and what it leaves.
-/

namespace Sys2Proof.Machine

@[simp] theorem State.setCmd_cmd (s : State) (x : BitVec 65) : (s.setCmd x).cmd = x := rfl
@[simp] theorem State.setCmd_variant (s : State) (x : BitVec 65) : (s.setCmd x).variant = s.variant := rfl
@[simp] theorem State.setCmd_messageLength (s : State) (x : BitVec 65) : (s.setCmd x).messageLength = s.messageLength := rfl
@[simp] theorem State.setCmd_L (s : State) (x : BitVec 65) : (s.setCmd x).L = s.L := rfl
@[simp] theorem State.setCmd_H (s : State) (x : BitVec 65) : (s.setCmd x).H = s.H := rfl
@[simp] theorem State.setCmd_regs (s : State) (x : BitVec 65) : (s.setCmd x).regs = s.regs := rfl
@[simp] theorem State.setCmd_blk (s : State) (x : BitVec 65) : (s.setCmd x).blk = s.blk := rfl
@[simp] theorem State.setCmd_W (s : State) (x : BitVec 65) : (s.setCmd x).W = s.W := rfl
@[simp] theorem State.setCmd_processed (s : State) (x : BitVec 65) : (s.setCmd x).processed = s.processed := rfl
@[simp] theorem State.setCmd_t (s : State) (x : BitVec 65) : (s.setCmd x).t = s.t := rfl
@[simp] theorem State.setCmd_phase (s : State) (x : BitVec 65) : (s.setCmd x).phase = s.phase := rfl
@[simp] theorem State.setCmd_terminal (s : State) (x : BitVec 65) : (s.setCmd x).terminal = s.terminal := rfl
@[simp] theorem State.setCmd_room (s : State) (x : BitVec 65) : (s.setCmd x).room = s.room := rfl
@[simp] theorem State.setCmd_synthPending (s : State) (x : BitVec 65) : (s.setCmd x).synthPending = s.synthPending := rfl
@[simp] theorem State.setCmd_digestOut (s : State) (x : BitVec 65) : (s.setCmd x).digestOut = s.digestOut := rfl
@[simp] theorem State.setCmd_msg (s : State) (x : BitVec 65) : (s.setCmd x).msg = s.msg := rfl
@[simp] theorem State.setCmd_presented (s : State) (x : BitVec 65) : (s.setCmd x).presented = s.presented := rfl

@[simp] theorem State.setVariant_cmd (s : State) (x : Variant) : (s.setVariant x).cmd = s.cmd := rfl
@[simp] theorem State.setVariant_variant (s : State) (x : Variant) : (s.setVariant x).variant = x := rfl
@[simp] theorem State.setVariant_messageLength (s : State) (x : Variant) : (s.setVariant x).messageLength = s.messageLength := rfl
@[simp] theorem State.setVariant_L (s : State) (x : Variant) : (s.setVariant x).L = s.L := rfl
@[simp] theorem State.setVariant_H (s : State) (x : Variant) : (s.setVariant x).H = s.H := rfl
@[simp] theorem State.setVariant_regs (s : State) (x : Variant) : (s.setVariant x).regs = s.regs := rfl
@[simp] theorem State.setVariant_blk (s : State) (x : Variant) : (s.setVariant x).blk = s.blk := rfl
@[simp] theorem State.setVariant_W (s : State) (x : Variant) : (s.setVariant x).W = s.W := rfl
@[simp] theorem State.setVariant_processed (s : State) (x : Variant) : (s.setVariant x).processed = s.processed := rfl
@[simp] theorem State.setVariant_t (s : State) (x : Variant) : (s.setVariant x).t = s.t := rfl
@[simp] theorem State.setVariant_phase (s : State) (x : Variant) : (s.setVariant x).phase = s.phase := rfl
@[simp] theorem State.setVariant_terminal (s : State) (x : Variant) : (s.setVariant x).terminal = s.terminal := rfl
@[simp] theorem State.setVariant_room (s : State) (x : Variant) : (s.setVariant x).room = s.room := rfl
@[simp] theorem State.setVariant_synthPending (s : State) (x : Variant) : (s.setVariant x).synthPending = s.synthPending := rfl
@[simp] theorem State.setVariant_digestOut (s : State) (x : Variant) : (s.setVariant x).digestOut = s.digestOut := rfl
@[simp] theorem State.setVariant_msg (s : State) (x : Variant) : (s.setVariant x).msg = s.msg := rfl
@[simp] theorem State.setVariant_presented (s : State) (x : Variant) : (s.setVariant x).presented = s.presented := rfl

@[simp] theorem State.setMessageLength_cmd (s : State) (x : BitVec 64) : (s.setMessageLength x).cmd = s.cmd := rfl
@[simp] theorem State.setMessageLength_variant (s : State) (x : BitVec 64) : (s.setMessageLength x).variant = s.variant := rfl
@[simp] theorem State.setMessageLength_messageLength (s : State) (x : BitVec 64) : (s.setMessageLength x).messageLength = x := rfl
@[simp] theorem State.setMessageLength_L (s : State) (x : BitVec 64) : (s.setMessageLength x).L = s.L := rfl
@[simp] theorem State.setMessageLength_H (s : State) (x : BitVec 64) : (s.setMessageLength x).H = s.H := rfl
@[simp] theorem State.setMessageLength_regs (s : State) (x : BitVec 64) : (s.setMessageLength x).regs = s.regs := rfl
@[simp] theorem State.setMessageLength_blk (s : State) (x : BitVec 64) : (s.setMessageLength x).blk = s.blk := rfl
@[simp] theorem State.setMessageLength_W (s : State) (x : BitVec 64) : (s.setMessageLength x).W = s.W := rfl
@[simp] theorem State.setMessageLength_processed (s : State) (x : BitVec 64) : (s.setMessageLength x).processed = s.processed := rfl
@[simp] theorem State.setMessageLength_t (s : State) (x : BitVec 64) : (s.setMessageLength x).t = s.t := rfl
@[simp] theorem State.setMessageLength_phase (s : State) (x : BitVec 64) : (s.setMessageLength x).phase = s.phase := rfl
@[simp] theorem State.setMessageLength_terminal (s : State) (x : BitVec 64) : (s.setMessageLength x).terminal = s.terminal := rfl
@[simp] theorem State.setMessageLength_room (s : State) (x : BitVec 64) : (s.setMessageLength x).room = s.room := rfl
@[simp] theorem State.setMessageLength_synthPending (s : State) (x : BitVec 64) : (s.setMessageLength x).synthPending = s.synthPending := rfl
@[simp] theorem State.setMessageLength_digestOut (s : State) (x : BitVec 64) : (s.setMessageLength x).digestOut = s.digestOut := rfl
@[simp] theorem State.setMessageLength_msg (s : State) (x : BitVec 64) : (s.setMessageLength x).msg = s.msg := rfl
@[simp] theorem State.setMessageLength_presented (s : State) (x : BitVec 64) : (s.setMessageLength x).presented = s.presented := rfl

@[simp] theorem State.setL_cmd (s : State) (x : BitVec 64) : (s.setL x).cmd = s.cmd := rfl
@[simp] theorem State.setL_variant (s : State) (x : BitVec 64) : (s.setL x).variant = s.variant := rfl
@[simp] theorem State.setL_messageLength (s : State) (x : BitVec 64) : (s.setL x).messageLength = s.messageLength := rfl
@[simp] theorem State.setL_L (s : State) (x : BitVec 64) : (s.setL x).L = x := rfl
@[simp] theorem State.setL_H (s : State) (x : BitVec 64) : (s.setL x).H = s.H := rfl
@[simp] theorem State.setL_regs (s : State) (x : BitVec 64) : (s.setL x).regs = s.regs := rfl
@[simp] theorem State.setL_blk (s : State) (x : BitVec 64) : (s.setL x).blk = s.blk := rfl
@[simp] theorem State.setL_W (s : State) (x : BitVec 64) : (s.setL x).W = s.W := rfl
@[simp] theorem State.setL_processed (s : State) (x : BitVec 64) : (s.setL x).processed = s.processed := rfl
@[simp] theorem State.setL_t (s : State) (x : BitVec 64) : (s.setL x).t = s.t := rfl
@[simp] theorem State.setL_phase (s : State) (x : BitVec 64) : (s.setL x).phase = s.phase := rfl
@[simp] theorem State.setL_terminal (s : State) (x : BitVec 64) : (s.setL x).terminal = s.terminal := rfl
@[simp] theorem State.setL_room (s : State) (x : BitVec 64) : (s.setL x).room = s.room := rfl
@[simp] theorem State.setL_synthPending (s : State) (x : BitVec 64) : (s.setL x).synthPending = s.synthPending := rfl
@[simp] theorem State.setL_digestOut (s : State) (x : BitVec 64) : (s.setL x).digestOut = s.digestOut := rfl
@[simp] theorem State.setL_msg (s : State) (x : BitVec 64) : (s.setL x).msg = s.msg := rfl
@[simp] theorem State.setL_presented (s : State) (x : BitVec 64) : (s.setL x).presented = s.presented := rfl

@[simp] theorem State.setH_cmd (s : State) (x : Vector Slot 8) : (s.setH x).cmd = s.cmd := rfl
@[simp] theorem State.setH_variant (s : State) (x : Vector Slot 8) : (s.setH x).variant = s.variant := rfl
@[simp] theorem State.setH_messageLength (s : State) (x : Vector Slot 8) : (s.setH x).messageLength = s.messageLength := rfl
@[simp] theorem State.setH_L (s : State) (x : Vector Slot 8) : (s.setH x).L = s.L := rfl
@[simp] theorem State.setH_H (s : State) (x : Vector Slot 8) : (s.setH x).H = x := rfl
@[simp] theorem State.setH_regs (s : State) (x : Vector Slot 8) : (s.setH x).regs = s.regs := rfl
@[simp] theorem State.setH_blk (s : State) (x : Vector Slot 8) : (s.setH x).blk = s.blk := rfl
@[simp] theorem State.setH_W (s : State) (x : Vector Slot 8) : (s.setH x).W = s.W := rfl
@[simp] theorem State.setH_processed (s : State) (x : Vector Slot 8) : (s.setH x).processed = s.processed := rfl
@[simp] theorem State.setH_t (s : State) (x : Vector Slot 8) : (s.setH x).t = s.t := rfl
@[simp] theorem State.setH_phase (s : State) (x : Vector Slot 8) : (s.setH x).phase = s.phase := rfl
@[simp] theorem State.setH_terminal (s : State) (x : Vector Slot 8) : (s.setH x).terminal = s.terminal := rfl
@[simp] theorem State.setH_room (s : State) (x : Vector Slot 8) : (s.setH x).room = s.room := rfl
@[simp] theorem State.setH_synthPending (s : State) (x : Vector Slot 8) : (s.setH x).synthPending = s.synthPending := rfl
@[simp] theorem State.setH_digestOut (s : State) (x : Vector Slot 8) : (s.setH x).digestOut = s.digestOut := rfl
@[simp] theorem State.setH_msg (s : State) (x : Vector Slot 8) : (s.setH x).msg = s.msg := rfl
@[simp] theorem State.setH_presented (s : State) (x : Vector Slot 8) : (s.setH x).presented = s.presented := rfl

@[simp] theorem State.setRegs_cmd (s : State) (x : Oct Slot) : (s.setRegs x).cmd = s.cmd := rfl
@[simp] theorem State.setRegs_variant (s : State) (x : Oct Slot) : (s.setRegs x).variant = s.variant := rfl
@[simp] theorem State.setRegs_messageLength (s : State) (x : Oct Slot) : (s.setRegs x).messageLength = s.messageLength := rfl
@[simp] theorem State.setRegs_L (s : State) (x : Oct Slot) : (s.setRegs x).L = s.L := rfl
@[simp] theorem State.setRegs_H (s : State) (x : Oct Slot) : (s.setRegs x).H = s.H := rfl
@[simp] theorem State.setRegs_regs (s : State) (x : Oct Slot) : (s.setRegs x).regs = x := rfl
@[simp] theorem State.setRegs_blk (s : State) (x : Oct Slot) : (s.setRegs x).blk = s.blk := rfl
@[simp] theorem State.setRegs_W (s : State) (x : Oct Slot) : (s.setRegs x).W = s.W := rfl
@[simp] theorem State.setRegs_processed (s : State) (x : Oct Slot) : (s.setRegs x).processed = s.processed := rfl
@[simp] theorem State.setRegs_t (s : State) (x : Oct Slot) : (s.setRegs x).t = s.t := rfl
@[simp] theorem State.setRegs_phase (s : State) (x : Oct Slot) : (s.setRegs x).phase = s.phase := rfl
@[simp] theorem State.setRegs_terminal (s : State) (x : Oct Slot) : (s.setRegs x).terminal = s.terminal := rfl
@[simp] theorem State.setRegs_room (s : State) (x : Oct Slot) : (s.setRegs x).room = s.room := rfl
@[simp] theorem State.setRegs_synthPending (s : State) (x : Oct Slot) : (s.setRegs x).synthPending = s.synthPending := rfl
@[simp] theorem State.setRegs_digestOut (s : State) (x : Oct Slot) : (s.setRegs x).digestOut = s.digestOut := rfl
@[simp] theorem State.setRegs_msg (s : State) (x : Oct Slot) : (s.setRegs x).msg = s.msg := rfl
@[simp] theorem State.setRegs_presented (s : State) (x : Oct Slot) : (s.setRegs x).presented = s.presented := rfl

@[simp] theorem State.setBlk_cmd (s : State) (x : Vector Byte 128) : (s.setBlk x).cmd = s.cmd := rfl
@[simp] theorem State.setBlk_variant (s : State) (x : Vector Byte 128) : (s.setBlk x).variant = s.variant := rfl
@[simp] theorem State.setBlk_messageLength (s : State) (x : Vector Byte 128) : (s.setBlk x).messageLength = s.messageLength := rfl
@[simp] theorem State.setBlk_L (s : State) (x : Vector Byte 128) : (s.setBlk x).L = s.L := rfl
@[simp] theorem State.setBlk_H (s : State) (x : Vector Byte 128) : (s.setBlk x).H = s.H := rfl
@[simp] theorem State.setBlk_regs (s : State) (x : Vector Byte 128) : (s.setBlk x).regs = s.regs := rfl
@[simp] theorem State.setBlk_blk (s : State) (x : Vector Byte 128) : (s.setBlk x).blk = x := rfl
@[simp] theorem State.setBlk_W (s : State) (x : Vector Byte 128) : (s.setBlk x).W = s.W := rfl
@[simp] theorem State.setBlk_processed (s : State) (x : Vector Byte 128) : (s.setBlk x).processed = s.processed := rfl
@[simp] theorem State.setBlk_t (s : State) (x : Vector Byte 128) : (s.setBlk x).t = s.t := rfl
@[simp] theorem State.setBlk_phase (s : State) (x : Vector Byte 128) : (s.setBlk x).phase = s.phase := rfl
@[simp] theorem State.setBlk_terminal (s : State) (x : Vector Byte 128) : (s.setBlk x).terminal = s.terminal := rfl
@[simp] theorem State.setBlk_room (s : State) (x : Vector Byte 128) : (s.setBlk x).room = s.room := rfl
@[simp] theorem State.setBlk_synthPending (s : State) (x : Vector Byte 128) : (s.setBlk x).synthPending = s.synthPending := rfl
@[simp] theorem State.setBlk_digestOut (s : State) (x : Vector Byte 128) : (s.setBlk x).digestOut = s.digestOut := rfl
@[simp] theorem State.setBlk_msg (s : State) (x : Vector Byte 128) : (s.setBlk x).msg = s.msg := rfl
@[simp] theorem State.setBlk_presented (s : State) (x : Vector Byte 128) : (s.setBlk x).presented = s.presented := rfl

@[simp] theorem State.setW_cmd (s : State) (x : Vector Slot 80) : (s.setW x).cmd = s.cmd := rfl
@[simp] theorem State.setW_variant (s : State) (x : Vector Slot 80) : (s.setW x).variant = s.variant := rfl
@[simp] theorem State.setW_messageLength (s : State) (x : Vector Slot 80) : (s.setW x).messageLength = s.messageLength := rfl
@[simp] theorem State.setW_L (s : State) (x : Vector Slot 80) : (s.setW x).L = s.L := rfl
@[simp] theorem State.setW_H (s : State) (x : Vector Slot 80) : (s.setW x).H = s.H := rfl
@[simp] theorem State.setW_regs (s : State) (x : Vector Slot 80) : (s.setW x).regs = s.regs := rfl
@[simp] theorem State.setW_blk (s : State) (x : Vector Slot 80) : (s.setW x).blk = s.blk := rfl
@[simp] theorem State.setW_W (s : State) (x : Vector Slot 80) : (s.setW x).W = x := rfl
@[simp] theorem State.setW_processed (s : State) (x : Vector Slot 80) : (s.setW x).processed = s.processed := rfl
@[simp] theorem State.setW_t (s : State) (x : Vector Slot 80) : (s.setW x).t = s.t := rfl
@[simp] theorem State.setW_phase (s : State) (x : Vector Slot 80) : (s.setW x).phase = s.phase := rfl
@[simp] theorem State.setW_terminal (s : State) (x : Vector Slot 80) : (s.setW x).terminal = s.terminal := rfl
@[simp] theorem State.setW_room (s : State) (x : Vector Slot 80) : (s.setW x).room = s.room := rfl
@[simp] theorem State.setW_synthPending (s : State) (x : Vector Slot 80) : (s.setW x).synthPending = s.synthPending := rfl
@[simp] theorem State.setW_digestOut (s : State) (x : Vector Slot 80) : (s.setW x).digestOut = s.digestOut := rfl
@[simp] theorem State.setW_msg (s : State) (x : Vector Slot 80) : (s.setW x).msg = s.msg := rfl
@[simp] theorem State.setW_presented (s : State) (x : Vector Slot 80) : (s.setW x).presented = s.presented := rfl

@[simp] theorem State.setProcessed_cmd (s : State) (x : BitVec 64) : (s.setProcessed x).cmd = s.cmd := rfl
@[simp] theorem State.setProcessed_variant (s : State) (x : BitVec 64) : (s.setProcessed x).variant = s.variant := rfl
@[simp] theorem State.setProcessed_messageLength (s : State) (x : BitVec 64) : (s.setProcessed x).messageLength = s.messageLength := rfl
@[simp] theorem State.setProcessed_L (s : State) (x : BitVec 64) : (s.setProcessed x).L = s.L := rfl
@[simp] theorem State.setProcessed_H (s : State) (x : BitVec 64) : (s.setProcessed x).H = s.H := rfl
@[simp] theorem State.setProcessed_regs (s : State) (x : BitVec 64) : (s.setProcessed x).regs = s.regs := rfl
@[simp] theorem State.setProcessed_blk (s : State) (x : BitVec 64) : (s.setProcessed x).blk = s.blk := rfl
@[simp] theorem State.setProcessed_W (s : State) (x : BitVec 64) : (s.setProcessed x).W = s.W := rfl
@[simp] theorem State.setProcessed_processed (s : State) (x : BitVec 64) : (s.setProcessed x).processed = x := rfl
@[simp] theorem State.setProcessed_t (s : State) (x : BitVec 64) : (s.setProcessed x).t = s.t := rfl
@[simp] theorem State.setProcessed_phase (s : State) (x : BitVec 64) : (s.setProcessed x).phase = s.phase := rfl
@[simp] theorem State.setProcessed_terminal (s : State) (x : BitVec 64) : (s.setProcessed x).terminal = s.terminal := rfl
@[simp] theorem State.setProcessed_room (s : State) (x : BitVec 64) : (s.setProcessed x).room = s.room := rfl
@[simp] theorem State.setProcessed_synthPending (s : State) (x : BitVec 64) : (s.setProcessed x).synthPending = s.synthPending := rfl
@[simp] theorem State.setProcessed_digestOut (s : State) (x : BitVec 64) : (s.setProcessed x).digestOut = s.digestOut := rfl
@[simp] theorem State.setProcessed_msg (s : State) (x : BitVec 64) : (s.setProcessed x).msg = s.msg := rfl
@[simp] theorem State.setProcessed_presented (s : State) (x : BitVec 64) : (s.setProcessed x).presented = s.presented := rfl

@[simp] theorem State.setT_cmd (s : State) (x : BitVec 7) : (s.setT x).cmd = s.cmd := rfl
@[simp] theorem State.setT_variant (s : State) (x : BitVec 7) : (s.setT x).variant = s.variant := rfl
@[simp] theorem State.setT_messageLength (s : State) (x : BitVec 7) : (s.setT x).messageLength = s.messageLength := rfl
@[simp] theorem State.setT_L (s : State) (x : BitVec 7) : (s.setT x).L = s.L := rfl
@[simp] theorem State.setT_H (s : State) (x : BitVec 7) : (s.setT x).H = s.H := rfl
@[simp] theorem State.setT_regs (s : State) (x : BitVec 7) : (s.setT x).regs = s.regs := rfl
@[simp] theorem State.setT_blk (s : State) (x : BitVec 7) : (s.setT x).blk = s.blk := rfl
@[simp] theorem State.setT_W (s : State) (x : BitVec 7) : (s.setT x).W = s.W := rfl
@[simp] theorem State.setT_processed (s : State) (x : BitVec 7) : (s.setT x).processed = s.processed := rfl
@[simp] theorem State.setT_t (s : State) (x : BitVec 7) : (s.setT x).t = x := rfl
@[simp] theorem State.setT_phase (s : State) (x : BitVec 7) : (s.setT x).phase = s.phase := rfl
@[simp] theorem State.setT_terminal (s : State) (x : BitVec 7) : (s.setT x).terminal = s.terminal := rfl
@[simp] theorem State.setT_room (s : State) (x : BitVec 7) : (s.setT x).room = s.room := rfl
@[simp] theorem State.setT_synthPending (s : State) (x : BitVec 7) : (s.setT x).synthPending = s.synthPending := rfl
@[simp] theorem State.setT_digestOut (s : State) (x : BitVec 7) : (s.setT x).digestOut = s.digestOut := rfl
@[simp] theorem State.setT_msg (s : State) (x : BitVec 7) : (s.setT x).msg = s.msg := rfl
@[simp] theorem State.setT_presented (s : State) (x : BitVec 7) : (s.setT x).presented = s.presented := rfl

@[simp] theorem State.setPhase_cmd (s : State) (x : Phase) : (s.setPhase x).cmd = s.cmd := rfl
@[simp] theorem State.setPhase_variant (s : State) (x : Phase) : (s.setPhase x).variant = s.variant := rfl
@[simp] theorem State.setPhase_messageLength (s : State) (x : Phase) : (s.setPhase x).messageLength = s.messageLength := rfl
@[simp] theorem State.setPhase_L (s : State) (x : Phase) : (s.setPhase x).L = s.L := rfl
@[simp] theorem State.setPhase_H (s : State) (x : Phase) : (s.setPhase x).H = s.H := rfl
@[simp] theorem State.setPhase_regs (s : State) (x : Phase) : (s.setPhase x).regs = s.regs := rfl
@[simp] theorem State.setPhase_blk (s : State) (x : Phase) : (s.setPhase x).blk = s.blk := rfl
@[simp] theorem State.setPhase_W (s : State) (x : Phase) : (s.setPhase x).W = s.W := rfl
@[simp] theorem State.setPhase_processed (s : State) (x : Phase) : (s.setPhase x).processed = s.processed := rfl
@[simp] theorem State.setPhase_t (s : State) (x : Phase) : (s.setPhase x).t = s.t := rfl
@[simp] theorem State.setPhase_phase (s : State) (x : Phase) : (s.setPhase x).phase = x := rfl
@[simp] theorem State.setPhase_terminal (s : State) (x : Phase) : (s.setPhase x).terminal = s.terminal := rfl
@[simp] theorem State.setPhase_room (s : State) (x : Phase) : (s.setPhase x).room = s.room := rfl
@[simp] theorem State.setPhase_synthPending (s : State) (x : Phase) : (s.setPhase x).synthPending = s.synthPending := rfl
@[simp] theorem State.setPhase_digestOut (s : State) (x : Phase) : (s.setPhase x).digestOut = s.digestOut := rfl
@[simp] theorem State.setPhase_msg (s : State) (x : Phase) : (s.setPhase x).msg = s.msg := rfl
@[simp] theorem State.setPhase_presented (s : State) (x : Phase) : (s.setPhase x).presented = s.presented := rfl

@[simp] theorem State.setTerminal_cmd (s : State) (x : Bool) : (s.setTerminal x).cmd = s.cmd := rfl
@[simp] theorem State.setTerminal_variant (s : State) (x : Bool) : (s.setTerminal x).variant = s.variant := rfl
@[simp] theorem State.setTerminal_messageLength (s : State) (x : Bool) : (s.setTerminal x).messageLength = s.messageLength := rfl
@[simp] theorem State.setTerminal_L (s : State) (x : Bool) : (s.setTerminal x).L = s.L := rfl
@[simp] theorem State.setTerminal_H (s : State) (x : Bool) : (s.setTerminal x).H = s.H := rfl
@[simp] theorem State.setTerminal_regs (s : State) (x : Bool) : (s.setTerminal x).regs = s.regs := rfl
@[simp] theorem State.setTerminal_blk (s : State) (x : Bool) : (s.setTerminal x).blk = s.blk := rfl
@[simp] theorem State.setTerminal_W (s : State) (x : Bool) : (s.setTerminal x).W = s.W := rfl
@[simp] theorem State.setTerminal_processed (s : State) (x : Bool) : (s.setTerminal x).processed = s.processed := rfl
@[simp] theorem State.setTerminal_t (s : State) (x : Bool) : (s.setTerminal x).t = s.t := rfl
@[simp] theorem State.setTerminal_phase (s : State) (x : Bool) : (s.setTerminal x).phase = s.phase := rfl
@[simp] theorem State.setTerminal_terminal (s : State) (x : Bool) : (s.setTerminal x).terminal = x := rfl
@[simp] theorem State.setTerminal_room (s : State) (x : Bool) : (s.setTerminal x).room = s.room := rfl
@[simp] theorem State.setTerminal_synthPending (s : State) (x : Bool) : (s.setTerminal x).synthPending = s.synthPending := rfl
@[simp] theorem State.setTerminal_digestOut (s : State) (x : Bool) : (s.setTerminal x).digestOut = s.digestOut := rfl
@[simp] theorem State.setTerminal_msg (s : State) (x : Bool) : (s.setTerminal x).msg = s.msg := rfl
@[simp] theorem State.setTerminal_presented (s : State) (x : Bool) : (s.setTerminal x).presented = s.presented := rfl

@[simp] theorem State.setRoom_cmd (s : State) (x : Bool) : (s.setRoom x).cmd = s.cmd := rfl
@[simp] theorem State.setRoom_variant (s : State) (x : Bool) : (s.setRoom x).variant = s.variant := rfl
@[simp] theorem State.setRoom_messageLength (s : State) (x : Bool) : (s.setRoom x).messageLength = s.messageLength := rfl
@[simp] theorem State.setRoom_L (s : State) (x : Bool) : (s.setRoom x).L = s.L := rfl
@[simp] theorem State.setRoom_H (s : State) (x : Bool) : (s.setRoom x).H = s.H := rfl
@[simp] theorem State.setRoom_regs (s : State) (x : Bool) : (s.setRoom x).regs = s.regs := rfl
@[simp] theorem State.setRoom_blk (s : State) (x : Bool) : (s.setRoom x).blk = s.blk := rfl
@[simp] theorem State.setRoom_W (s : State) (x : Bool) : (s.setRoom x).W = s.W := rfl
@[simp] theorem State.setRoom_processed (s : State) (x : Bool) : (s.setRoom x).processed = s.processed := rfl
@[simp] theorem State.setRoom_t (s : State) (x : Bool) : (s.setRoom x).t = s.t := rfl
@[simp] theorem State.setRoom_phase (s : State) (x : Bool) : (s.setRoom x).phase = s.phase := rfl
@[simp] theorem State.setRoom_terminal (s : State) (x : Bool) : (s.setRoom x).terminal = s.terminal := rfl
@[simp] theorem State.setRoom_room (s : State) (x : Bool) : (s.setRoom x).room = x := rfl
@[simp] theorem State.setRoom_synthPending (s : State) (x : Bool) : (s.setRoom x).synthPending = s.synthPending := rfl
@[simp] theorem State.setRoom_digestOut (s : State) (x : Bool) : (s.setRoom x).digestOut = s.digestOut := rfl
@[simp] theorem State.setRoom_msg (s : State) (x : Bool) : (s.setRoom x).msg = s.msg := rfl
@[simp] theorem State.setRoom_presented (s : State) (x : Bool) : (s.setRoom x).presented = s.presented := rfl

@[simp] theorem State.setSynthPending_cmd (s : State) (x : Bool) : (s.setSynthPending x).cmd = s.cmd := rfl
@[simp] theorem State.setSynthPending_variant (s : State) (x : Bool) : (s.setSynthPending x).variant = s.variant := rfl
@[simp] theorem State.setSynthPending_messageLength (s : State) (x : Bool) : (s.setSynthPending x).messageLength = s.messageLength := rfl
@[simp] theorem State.setSynthPending_L (s : State) (x : Bool) : (s.setSynthPending x).L = s.L := rfl
@[simp] theorem State.setSynthPending_H (s : State) (x : Bool) : (s.setSynthPending x).H = s.H := rfl
@[simp] theorem State.setSynthPending_regs (s : State) (x : Bool) : (s.setSynthPending x).regs = s.regs := rfl
@[simp] theorem State.setSynthPending_blk (s : State) (x : Bool) : (s.setSynthPending x).blk = s.blk := rfl
@[simp] theorem State.setSynthPending_W (s : State) (x : Bool) : (s.setSynthPending x).W = s.W := rfl
@[simp] theorem State.setSynthPending_processed (s : State) (x : Bool) : (s.setSynthPending x).processed = s.processed := rfl
@[simp] theorem State.setSynthPending_t (s : State) (x : Bool) : (s.setSynthPending x).t = s.t := rfl
@[simp] theorem State.setSynthPending_phase (s : State) (x : Bool) : (s.setSynthPending x).phase = s.phase := rfl
@[simp] theorem State.setSynthPending_terminal (s : State) (x : Bool) : (s.setSynthPending x).terminal = s.terminal := rfl
@[simp] theorem State.setSynthPending_room (s : State) (x : Bool) : (s.setSynthPending x).room = s.room := rfl
@[simp] theorem State.setSynthPending_synthPending (s : State) (x : Bool) : (s.setSynthPending x).synthPending = x := rfl
@[simp] theorem State.setSynthPending_digestOut (s : State) (x : Bool) : (s.setSynthPending x).digestOut = s.digestOut := rfl
@[simp] theorem State.setSynthPending_msg (s : State) (x : Bool) : (s.setSynthPending x).msg = s.msg := rfl
@[simp] theorem State.setSynthPending_presented (s : State) (x : Bool) : (s.setSynthPending x).presented = s.presented := rfl

@[simp] theorem State.setDigestOut_cmd (s : State) (x : Memory) : (s.setDigestOut x).cmd = s.cmd := rfl
@[simp] theorem State.setDigestOut_variant (s : State) (x : Memory) : (s.setDigestOut x).variant = s.variant := rfl
@[simp] theorem State.setDigestOut_messageLength (s : State) (x : Memory) : (s.setDigestOut x).messageLength = s.messageLength := rfl
@[simp] theorem State.setDigestOut_L (s : State) (x : Memory) : (s.setDigestOut x).L = s.L := rfl
@[simp] theorem State.setDigestOut_H (s : State) (x : Memory) : (s.setDigestOut x).H = s.H := rfl
@[simp] theorem State.setDigestOut_regs (s : State) (x : Memory) : (s.setDigestOut x).regs = s.regs := rfl
@[simp] theorem State.setDigestOut_blk (s : State) (x : Memory) : (s.setDigestOut x).blk = s.blk := rfl
@[simp] theorem State.setDigestOut_W (s : State) (x : Memory) : (s.setDigestOut x).W = s.W := rfl
@[simp] theorem State.setDigestOut_processed (s : State) (x : Memory) : (s.setDigestOut x).processed = s.processed := rfl
@[simp] theorem State.setDigestOut_t (s : State) (x : Memory) : (s.setDigestOut x).t = s.t := rfl
@[simp] theorem State.setDigestOut_phase (s : State) (x : Memory) : (s.setDigestOut x).phase = s.phase := rfl
@[simp] theorem State.setDigestOut_terminal (s : State) (x : Memory) : (s.setDigestOut x).terminal = s.terminal := rfl
@[simp] theorem State.setDigestOut_room (s : State) (x : Memory) : (s.setDigestOut x).room = s.room := rfl
@[simp] theorem State.setDigestOut_synthPending (s : State) (x : Memory) : (s.setDigestOut x).synthPending = s.synthPending := rfl
@[simp] theorem State.setDigestOut_digestOut (s : State) (x : Memory) : (s.setDigestOut x).digestOut = x := rfl
@[simp] theorem State.setDigestOut_msg (s : State) (x : Memory) : (s.setDigestOut x).msg = s.msg := rfl
@[simp] theorem State.setDigestOut_presented (s : State) (x : Memory) : (s.setDigestOut x).presented = s.presented := rfl

@[simp] theorem State.setMsg_cmd (s : State) (x : Memory) : (s.setMsg x).cmd = s.cmd := rfl
@[simp] theorem State.setMsg_variant (s : State) (x : Memory) : (s.setMsg x).variant = s.variant := rfl
@[simp] theorem State.setMsg_messageLength (s : State) (x : Memory) : (s.setMsg x).messageLength = s.messageLength := rfl
@[simp] theorem State.setMsg_L (s : State) (x : Memory) : (s.setMsg x).L = s.L := rfl
@[simp] theorem State.setMsg_H (s : State) (x : Memory) : (s.setMsg x).H = s.H := rfl
@[simp] theorem State.setMsg_regs (s : State) (x : Memory) : (s.setMsg x).regs = s.regs := rfl
@[simp] theorem State.setMsg_blk (s : State) (x : Memory) : (s.setMsg x).blk = s.blk := rfl
@[simp] theorem State.setMsg_W (s : State) (x : Memory) : (s.setMsg x).W = s.W := rfl
@[simp] theorem State.setMsg_processed (s : State) (x : Memory) : (s.setMsg x).processed = s.processed := rfl
@[simp] theorem State.setMsg_t (s : State) (x : Memory) : (s.setMsg x).t = s.t := rfl
@[simp] theorem State.setMsg_phase (s : State) (x : Memory) : (s.setMsg x).phase = s.phase := rfl
@[simp] theorem State.setMsg_terminal (s : State) (x : Memory) : (s.setMsg x).terminal = s.terminal := rfl
@[simp] theorem State.setMsg_room (s : State) (x : Memory) : (s.setMsg x).room = s.room := rfl
@[simp] theorem State.setMsg_synthPending (s : State) (x : Memory) : (s.setMsg x).synthPending = s.synthPending := rfl
@[simp] theorem State.setMsg_digestOut (s : State) (x : Memory) : (s.setMsg x).digestOut = s.digestOut := rfl
@[simp] theorem State.setMsg_msg (s : State) (x : Memory) : (s.setMsg x).msg = x := rfl
@[simp] theorem State.setMsg_presented (s : State) (x : Memory) : (s.setMsg x).presented = s.presented := rfl

@[simp] theorem State.setPresented_cmd (s : State) (x : Option (BitVec 65)) : (s.setPresented x).cmd = s.cmd := rfl
@[simp] theorem State.setPresented_variant (s : State) (x : Option (BitVec 65)) : (s.setPresented x).variant = s.variant := rfl
@[simp] theorem State.setPresented_messageLength (s : State) (x : Option (BitVec 65)) : (s.setPresented x).messageLength = s.messageLength := rfl
@[simp] theorem State.setPresented_L (s : State) (x : Option (BitVec 65)) : (s.setPresented x).L = s.L := rfl
@[simp] theorem State.setPresented_H (s : State) (x : Option (BitVec 65)) : (s.setPresented x).H = s.H := rfl
@[simp] theorem State.setPresented_regs (s : State) (x : Option (BitVec 65)) : (s.setPresented x).regs = s.regs := rfl
@[simp] theorem State.setPresented_blk (s : State) (x : Option (BitVec 65)) : (s.setPresented x).blk = s.blk := rfl
@[simp] theorem State.setPresented_W (s : State) (x : Option (BitVec 65)) : (s.setPresented x).W = s.W := rfl
@[simp] theorem State.setPresented_processed (s : State) (x : Option (BitVec 65)) : (s.setPresented x).processed = s.processed := rfl
@[simp] theorem State.setPresented_t (s : State) (x : Option (BitVec 65)) : (s.setPresented x).t = s.t := rfl
@[simp] theorem State.setPresented_phase (s : State) (x : Option (BitVec 65)) : (s.setPresented x).phase = s.phase := rfl
@[simp] theorem State.setPresented_terminal (s : State) (x : Option (BitVec 65)) : (s.setPresented x).terminal = s.terminal := rfl
@[simp] theorem State.setPresented_room (s : State) (x : Option (BitVec 65)) : (s.setPresented x).room = s.room := rfl
@[simp] theorem State.setPresented_synthPending (s : State) (x : Option (BitVec 65)) : (s.setPresented x).synthPending = s.synthPending := rfl
@[simp] theorem State.setPresented_digestOut (s : State) (x : Option (BitVec 65)) : (s.setPresented x).digestOut = s.digestOut := rfl
@[simp] theorem State.setPresented_msg (s : State) (x : Option (BitVec 65)) : (s.setPresented x).msg = s.msg := rfl
@[simp] theorem State.setPresented_presented (s : State) (x : Option (BitVec 65)) : (s.setPresented x).presented = x := rfl

end Sys2Proof.Machine
end

