-- ==== Sys2Proof/Laws/Accumulator.lean ====
section
/-!
SUPPORT. What the two operations of the State Accumulator can do, said once.
-/

namespace Sys2Proof.Machine

/-- The running state after ACC.ADD. -/
def accumulated (v : Variant) (s : State) : Vector Slot 8 :=
  stateSlots v (addWords v (stateWords v s.H) (regWords v s.regs))

/-- ACC.ADD after the terminal block. -/
theorem accAdd_terminal {v : Variant} {s : State} (h : s.terminal = true) :
    accAdd v s = .next ((s.setH (accumulated v s)).setPhase .serOut) := by
  simp [accAdd, accumulated, h]

/-- ACC.ADD after a block that is not terminal. -/
theorem accAdd_more {v : Variant} {s : State} (h : s.terminal = false) (hc : s.processed.toNat + v.bs < 2 ^ 64) :
    accAdd v s = .next (((s.setH (accumulated v s)).setProcessed (BitVec.ofNat 64 (s.processed.toNat + v.bs))).setPhase
      (if s.synthPending then .segSynth else .segFill)) := by
  simp only [accAdd, accumulated, blockEnd, h, hc, if_true, Bool.false_eq_true, if_false]

theorem accAdd_stops {v : Variant} {s : State} (h : s.terminal = false) (hc : ¬s.processed.toNat + v.bs < 2 ^ 64) :
    accAdd v s = .fault .cursorOverflow := by
  simp only [accAdd, blockEnd, h, hc, Bool.false_eq_true, if_false]

/-- If ACC.ADD answers a next state, it is one of the two ways on. -/
theorem accAdd_next {v : Variant} {s t : State} (h : accAdd v s = .next t) :
    (s.terminal = true ∧ t = (s.setH (accumulated v s)).setPhase .serOut) ∨
    (s.terminal = false ∧ s.processed.toNat + v.bs < 2 ^ 64 ∧
      t = ((s.setH (accumulated v s)).setProcessed (BitVec.ofNat 64 (s.processed.toNat + v.bs))).setPhase
        (if s.synthPending then .segSynth else .segFill)) := by
  cases ht : s.terminal
  · by_cases hc : s.processed.toNat + v.bs < 2 ^ 64
    · rw [accAdd_more ht hc] at h
      cases h
      exact .inr ⟨rfl, hc, rfl⟩
    · rw [accAdd_stops ht hc] at h
      cases h
  · rw [accAdd_terminal ht] at h
    cases h
    exact .inl ⟨rfl, rfl⟩

/-- What `DIG` holds after SER.OUT. -/
theorem read_serOut (v : Variant) (s : State) (a : Nat) :
    (s.digestOut.writeUpTo v.ds (digestByte v s.H)).read a =
      if a < v.ds then some (digestByte v s.H a) else s.digestOut.read a :=
  Memory.read_writeUpTo _ _ _ _

end Sys2Proof.Machine
end

