-- ==== Sys2Proof/Laws/Decode.lean ====
section
/-!
SUPPORT. The laws of the byte layout, of the two fields of a command word, and of the code table.
-/

namespace Sys2Proof

@[simp] theorem length_natToBytes (n x : Nat) : (natToBytes n x).length = n := by
  induction n generalizing x with
  | zero => rfl
  | succ n ih => simp [natToBytes, ih]

/-- The bytes of a value that fits them give the value back. -/
theorem bytesToNat_natToBytes (n x : Nat) (h : x < 256 ^ n) : bytesToNat (natToBytes n x) = x := by
  induction n generalizing x with
  | zero => simp [natToBytes, bytesToNat] at h ⊢; omega
  | succ n ih =>
    have := ih (x / 256) (by rw [Nat.div_lt_iff_lt_mul (by decide)]; rw [Nat.pow_succ] at h; exact h)
    simp only [natToBytes, bytesToNat, this, BitVec.toNat_ofNat]
    omega

theorem bytesToNat_lt (bs : List Byte) : bytesToNat bs < 256 ^ bs.length := by
  induction bs with
  | nil => simp [bytesToNat]
  | cons b rest ih =>
    have := b.isLt
    simp only [bytesToNat, List.length_cons, Nat.pow_succ]
    omega

/-- Bytes are given back by the layout of their value. -/
theorem natToBytes_bytesToNat (bs : List Byte) : natToBytes bs.length (bytesToNat bs) = bs := by
  induction bs with
  | nil => rfl
  | cons b rest ih =>
    have hb := b.isLt
    have h1 : (b.toNat + 256 * bytesToNat rest) / 256 = bytesToNat rest := by omega
    have h2 : BitVec.ofNat 8 (b.toNat + 256 * bytesToNat rest) = b := by
      apply BitVec.eq_of_toNat_eq
      simp only [BitVec.toNat_ofNat]
      omega
    simp only [List.length_cons, bytesToNat, natToBytes, h1, h2, ih]

/-- The command word as a number: the variant's bit above the length. -/
theorem toNat_cmdWord (v : Variant) (len : BitVec 64) :
    (cmdWord v len).toNat = (match v with | .short => 0 | .long => 2 ^ 64) + len.toNat := by
  have h := len.isLt
  have hw : (cmdWord v len).toNat = (variantBit v).toNat * 2 ^ 64 + len.toNat := by
    show (variantBit v ++ len).toNat = _
    rw [BitVec.toNat_append, ← Nat.shiftLeft_add_eq_or_of_lt h, Nat.shiftLeft_eq]
  rw [hw]
  cases v <;> simp [variantBit]

theorem cmdVariant_eq (w : BitVec 65) : cmdVariant w = if w.toNat / 2 ^ 64 = 0 then .short else .long := by
  have h := w.isLt
  have hb : w.getLsbD 64 = decide (w.toNat / 2 ^ 64 % 2 = 1) := Nat.testBit_eq_decide_div_mod_eq
  unfold cmdVariant variantOfBit
  rw [hb]
  by_cases h0 : w.toNat / 2 ^ 64 = 0
  · rw [if_pos h0, h0]
    rfl
  · rw [if_neg h0, if_pos (decide_eq_true (show w.toNat / 2 ^ 64 % 2 = 1 by omega))]

theorem toNat_cmdLength (w : BitVec 65) : (cmdLength w).toNat = w.toNat % 2 ^ 64 := by
  simp [cmdLength]

@[simp] theorem cmdVariant_cmdWord (v : Variant) (len : BitVec 64) : cmdVariant (cmdWord v len) = v := by
  have h := len.isLt
  rw [cmdVariant_eq, toNat_cmdWord]
  cases v
  · exact if_pos (show (0 + len.toNat) / 2 ^ 64 = 0 by omega)
  · exact if_neg (show ¬(2 ^ 64 + len.toNat) / 2 ^ 64 = 0 by omega)

@[simp] theorem cmdLength_cmdWord (v : Variant) (len : BitVec 64) : cmdLength (cmdWord v len) = len := by
  have h := len.isLt
  apply BitVec.eq_of_toNat_eq
  rw [toNat_cmdLength, toNat_cmdWord]
  cases v
  · show (0 + len.toNat) % 2 ^ 64 = len.toNat
    omega
  · show (2 ^ 64 + len.toNat) % 2 ^ 64 = len.toNat
    omega

/-- A command word is its two fields. -/
theorem cmdWord_fields (w : BitVec 65) : cmdWord (cmdVariant w) (cmdLength w) = w := by
  have h := w.isLt
  apply BitVec.eq_of_toNat_eq
  rw [toNat_cmdWord, toNat_cmdLength, cmdVariant_eq]
  by_cases h0 : w.toNat / 2 ^ 64 = 0
  · rw [if_pos h0]
    show 0 + w.toNat % 2 ^ 64 = w.toNat
    omega
  · rw [if_neg h0]
    show 2 ^ 64 + w.toNat % 2 ^ 64 = w.toNat
    omega

/-- No two rows of the code table have the same code. -/
theorem uopTable_codes_distinct : (uopTable.map Prod.fst).Nodup := by decide

end Sys2Proof
end

