-- ==== Sys2Proof/Laws/Command.lean ====
section
/-!
SUPPORT. What the commands and INIT can do, said once.
-/

namespace Sys2Proof.Machine

theorem busyFlag_false_iff (s : State) : busyFlag s = false ↔ s.phase = .idle ∨ s.phase = .done := by
  cases hp : s.phase <;> simp [busyFlag, hp]

theorem acceptCommand_runs {v : Variant} {len : BitVec 64} {s : State} (h : busyFlag s = false) :
    acceptCommand v len s = .next (((s.setCmd (cmdWord v len)).setPhase .init).setPresented none) := by
  simp [acceptCommand, h]

theorem acceptCommand_refuses {v : Variant} {len : BitVec 64} {s : State} (h : busyFlag s = true) :
    acceptCommand v len s = .refused .commandWhileBusy := by
  simp [acceptCommand, h]

/-- If a command is accepted, the core was in `IDLE` or `DONE` and now holds the command in `INIT`. -/
theorem acceptCommand_next {v : Variant} {len : BitVec 64} {s t : State} (h : acceptCommand v len s = .next t) :
    busyFlag s = false ∧ t = ((s.setCmd (cmdWord v len)).setPhase .init).setPresented none := by
  cases hb : busyFlag s
  · rw [acceptCommand_runs hb] at h
    cases h
    exact ⟨rfl, rfl⟩
  · rw [acceptCommand_refuses hb] at h
    cases h

/-- The clamped length is the smaller of the two. -/
theorem toNat_clampLength (m : Nat) (len : BitVec 64) : (clampLength m len).toNat = min len.toNat m := by
  have := len.isLt
  simp only [clampLength, BitVec.toNat_ofNat]
  omega

end Sys2Proof.Machine
end

