-- ==== Sys2Proof/Laws/Expander.lean ====
section
/-!
SUPPORT. What the two operations of the Schedule Expander can do, said once.
-/

namespace Sys2Proof.Machine

/-- The cells of the schedule after EXP.LOAD. -/
theorem expLoad_cells (v : Variant) (s : State) (i : Nat) :
    (Vector.ofFn (fun i : Fin 80 => if i.val < 16 then toSlot v (nativeWord v s.blk i.val) else s.W[i]))[i]? =
      if i < 16 then some (toSlot v (nativeWord v s.blk i)) else s.W[i]? := by
  by_cases h : i < 80
  · by_cases h2 : i < 16 <;> simp [h, h2]
  · rw [if_neg (by omega)]
    simp [h]

/-- EXP.MIX inside its precondition. -/
theorem expMix_runs {v : Variant} {s : State} (h : 16 ≤ s.t.toNat ∧ s.t.toNat < v.nr) :
    expMix v s = .next (((s.setW (s.W.setIfInBounds s.t.toNat (toSlot v (mixWord v s.W s.t.toNat)))).setT
      (s.t + 1)).setPhase (if s.t.toNat + 1 = v.nr then .rndSeed else .expMix)) := by
  simp [expMix, h]

theorem expMix_stops {v : Variant} {s : State} (h : ¬(16 ≤ s.t.toNat ∧ s.t.toNat < v.nr)) :
    expMix v s = .fault .scheduleIndexOutOfRange := by
  simp only [expMix, h, if_false]

/-- If EXP.MIX answers a next state, `t` was in range and it wrote one word, `t` and the phase. -/
theorem expMix_next {v : Variant} {s t : State} (h : expMix v s = .next t) :
    (16 ≤ s.t.toNat ∧ s.t.toNat < v.nr) ∧
      t = ((s.setW (s.W.setIfInBounds s.t.toNat (toSlot v (mixWord v s.W s.t.toNat)))).setT (s.t + 1)).setPhase
        (if s.t.toNat + 1 = v.nr then .rndSeed else .expMix) := by
  by_cases hc : 16 ≤ s.t.toNat ∧ s.t.toNat < v.nr
  · rw [expMix_runs hc] at h
    cases h
    exact ⟨hc, rfl⟩
  · rw [expMix_stops hc] at h
    cases h

/-- The counter does not wrap inside its range. -/
theorem counter_succ {v : Variant} {t : BitVec 7} (h : t.toNat < v.nr) : (t + 1).toNat = t.toNat + 1 := by
  have := v.nr_le
  rw [BitVec.toNat_add]
  show (t.toNat + 1) % 128 = _
  omega

end Sys2Proof.Machine
end

