-- ==== Sys2Proof/Laws/PerInstr.lean ====
section
/-!
SUPPORT. Statements about every operation as syntax, one lemma per constructor.
-/

namespace Sys2Proof.Laws.EncodedLength

/-- The operation's word fits the bits of its format, and its bytes are the whole bytes of that format (R70, R72). -/
def Statement (i : Instr) : Prop :=
  encodeNat i < 2 ^ i.format.bits ∧ (encode i).length = i.format.bytes ∧ i.format.bits ≤ 8 * i.format.bytes

theorem digestS (len : BitVec 64) : Statement (.digestS len) := ⟨(cmdWord .short len).isLt, length_natToBytes _ _, (by decide : 65 ≤ 8 * 9)⟩
theorem digestL (len : BitVec 64) : Statement (.digestL len) := ⟨(cmdWord .long len).isLt, length_natToBytes _ _, (by decide : 65 ≤ 8 * 9)⟩
theorem initS : Statement .initS := ⟨by decide, by decide, by decide⟩
theorem initL : Statement .initL := ⟨by decide, by decide, by decide⟩
theorem segFillS : Statement .segFillS := ⟨by decide, by decide, by decide⟩
theorem segFillL : Statement .segFillL := ⟨by decide, by decide, by decide⟩
theorem segRoomS : Statement .segRoomS := ⟨by decide, by decide, by decide⟩
theorem segRoomL : Statement .segRoomL := ⟨by decide, by decide, by decide⟩
theorem segSynthS : Statement .segSynthS := ⟨by decide, by decide, by decide⟩
theorem segSynthL : Statement .segSynthL := ⟨by decide, by decide, by decide⟩
theorem expLoadS : Statement .expLoadS := ⟨by decide, by decide, by decide⟩
theorem expLoadL : Statement .expLoadL := ⟨by decide, by decide, by decide⟩
theorem expMixS : Statement .expMixS := ⟨by decide, by decide, by decide⟩
theorem expMixL : Statement .expMixL := ⟨by decide, by decide, by decide⟩
theorem rndSeedS : Statement .rndSeedS := ⟨by decide, by decide, by decide⟩
theorem rndSeedL : Statement .rndSeedL := ⟨by decide, by decide, by decide⟩
theorem rndStepS : Statement .rndStepS := ⟨by decide, by decide, by decide⟩
theorem rndStepL : Statement .rndStepL := ⟨by decide, by decide, by decide⟩
theorem accAddS : Statement .accAddS := ⟨by decide, by decide, by decide⟩
theorem accAddL : Statement .accAddL := ⟨by decide, by decide, by decide⟩
theorem serOutS : Statement .serOutS := ⟨by decide, by decide, by decide⟩
theorem serOutL : Statement .serOutL := ⟨by decide, by decide, by decide⟩

end Sys2Proof.Laws.EncodedLength
end

