-- ==== Sys2Proof/Laws/Round.lean ====
section
/-!
SUPPORT. What the two operations of the Compression Round can do, said once.
-/

namespace Sys2Proof.Machine

/-- RND.STEP inside its precondition. -/
theorem rndStep_runs {v : Variant} {s : State} (h : s.t.toNat < v.nr) :
    rndStep v s = .next (((s.setRegs (regSlots v (roundWords v (roundConst v s.t.toNat) (wordAt v s.W s.t.toNat)
      (regWords v s.regs)))).setT (s.t + 1)).setPhase (if s.t.toNat + 1 = v.nr then .accAdd else .rndStep)) := by
  simp [rndStep, h]

theorem rndStep_stops {v : Variant} {s : State} (h : ¬s.t.toNat < v.nr) :
    rndStep v s = .fault .roundIndexOutOfRange := by
  simp only [rndStep, h, if_false]

/-- If RND.STEP answers a next state, `t` was in range and it wrote the registers, `t` and the phase. -/
theorem rndStep_next {v : Variant} {s t : State} (h : rndStep v s = .next t) :
    s.t.toNat < v.nr ∧
      t = ((s.setRegs (regSlots v (roundWords v (roundConst v s.t.toNat) (wordAt v s.W s.t.toNat)
        (regWords v s.regs)))).setT (s.t + 1)).setPhase (if s.t.toNat + 1 = v.nr then .accAdd else .rndStep) := by
  by_cases hc : s.t.toNat < v.nr
  · rw [rndStep_runs hc] at h
    cases h
    exact ⟨hc, rfl⟩
  · rw [rndStep_stops hc] at h
    cases h

end Sys2Proof.Machine
end

