-- ==== Sys2Proof/Laws/Reference.lean ====
section
/-!
SUPPORT. The laws of the computation as one function: byte packing, the schedule's length, and what each part depends on.
-/

namespace Sys2Proof.Machine

theorem beNat_succ (n : Nat) (f : Nat → Byte) : beNat (n + 1) f = beNat n f * 256 + (f n).toNat := by
  simp [beNat, List.range_succ]

theorem beNat_lt (n : Nat) (f : Nat → Byte) : beNat n f < 256 ^ n := by
  induction n with
  | zero => simp [beNat]
  | succ n ih =>
    have := (f n).isLt
    rw [beNat_succ, Nat.pow_succ]
    omega

theorem beNat_congr {n : Nat} {f g : Nat → Byte} (h : ∀ j < n, f j = g j) : beNat n f = beNat n g := by
  induction n with
  | zero => rfl
  | succ n ih => rw [beNat_succ, beNat_succ, ih (fun j hj => h j (Nat.lt_succ_of_lt hj)), h n (Nat.lt_succ_self n)]

/-- The packed word is the big-endian value of its bytes. -/
theorem toNat_packBE {w : Nat} (n : Nat) (f : Nat → Byte) (h : 8 * n ≤ w) : (packBE (w := w) n f).toNat = beNat n f := by
  induction n with
  | zero => simp [packBE, beNat]
  | succ n ih =>
    have hlt := beNat_lt n f
    have hp : (256 : Nat) ^ (n + 1) ≤ 2 ^ w := by
      rw [show (256 : Nat) = 2 ^ 8 from rfl, ← Nat.pow_mul]
      exact Nat.pow_le_pow_right (by decide) h
    rw [Nat.pow_succ] at hp
    have hf := (f n).isLt
    have hpos := Nat.pow_pos (n := n) (show 0 < 256 by decide)
    have he : packBE (w := w) (n + 1) f = (packBE n f <<< 8) ||| (f n).setWidth w := by simp [packBE, List.range_succ]
    rw [he, BitVec.toNat_or, BitVec.toNat_shiftLeft, ih (by omega), Nat.shiftLeft_eq, BitVec.toNat_setWidth,
      Nat.mod_eq_of_lt (a := (f n).toNat) (by omega), Nat.mod_eq_of_lt (by omega), ← Nat.shiftLeft_eq (beNat n f) 8,
      ← Nat.shiftLeft_add_eq_or_of_lt hf, Nat.shiftLeft_eq, beNat_succ]

theorem toNat_nativeWord (v : Variant) (blk : Vector Byte 128) (i : Nat) :
    (nativeWord v blk i).toNat = beNat v.wb (fun j => byteAt blk (v.wb * i + j)) :=
  toNat_packBE _ _ (Nat.le_of_eq v.wb_eight)

@[simp] theorem length_nativeWords (v : Variant) (f : Nat → Byte) : (nativeWords v f).length = 16 := by simp [nativeWords]

@[simp] theorem length_extendBy (v : Variant) (n : Nat) (ws : List (Word v)) : (extendBy v n ws).length = ws.length + n := by
  induction n with
  | zero => rfl
  | succ n ih =>
    simp only [extendBy, extendSchedule, List.length_append, List.length_singleton, ih]
    omega

/-- A byte of a native word is a byte of the block. -/
theorem nativeByte_lt {v : Variant} {i j : Nat} (hi : i < 16) (hj : j < v.wb) : v.wb * i + j < v.bs := by
  have h : v.wb * (i + 1) ≤ v.wb * 16 := Nat.mul_le_mul_left _ hi
  rw [Nat.mul_succ, v.bs_words] at h
  omega

theorem nativeWords_congr {v : Variant} {f g : Nat → Byte} (h : ∀ i < v.bs, f i = g i) : nativeWords v f = nativeWords v g :=
  List.map_congr_left fun _ hi => by
    rw [beNat_congr fun _ hj => h _ (nativeByte_lt (List.mem_range.1 hi) hj)]

theorem roundsOf_congr {v : Variant} {ws ws' : List (Word v)} {n : Nat} (r : Oct (Word v))
    (h : ∀ i < n, ws.getD i 0 = ws'.getD i 0) : roundsOf v ws n r = roundsOf v ws' n r := by
  induction n with
  | zero => rfl
  | succ n ih => simp only [roundsOf, ih (fun i hi => h i (Nat.lt_succ_of_lt hi)), h n (Nat.lt_succ_self n)]

/-- The compression of a block depends on its `BS(v)` bytes only. -/
theorem compress_congr {v : Variant} (H : Oct (Word v)) {f g : Nat → Byte} (h : ∀ i < v.bs, f i = g i) :
    compress v H f = compress v H g := by
  simp only [compress, scheduleOf, nativeWords_congr h]

theorem toNat_counter {n : Nat} (h : n ≤ 80) : (BitVec.ofNat 7 n).toNat = n := by
  simp only [BitVec.toNat_ofNat]
  omega

end Sys2Proof.Machine
end

