-- ==== Sys2Proof/Laws/Segmenter.lean ====
section
/-!
SUPPORT. What the three operations of the Padder/Segmenter can do, said once, and the bytes of a trailer.
-/

namespace Sys2Proof.Machine

/-- A message read is refused for its index exactly at and beyond `L` (R67). -/
theorem readMessage_beyond_iff (s : State) (idx : Nat) :
    readMessage s idx = .error .messageReadBeyondLength ↔ s.L.toNat ≤ idx := by
  unfold readMessage
  by_cases h : s.L.toNat ≤ idx <;> cases hr : s.msg.read idx <;> simp [h]

/-- Below `L` a message read answers what the caller's memory holds, or refuses where it holds no byte. -/
theorem readMessage_below {s : State} {idx : Nat} (h : idx < s.L.toNat) :
    readMessage s idx = (s.msg.read idx).elim (.error .messageByteAbsent) .ok := by
  unfold readMessage
  rw [if_neg (by omega)]
  cases s.msg.read idx <;> rfl

/-- A byte of the raw block is missing only where a message byte below `L` is. -/
theorem fillByte_isOk_iff (s : State) (i : Nat) :
    (fillByte s i).isOk = true ↔
      (s.processed.toNat + i < s.L.toNat → (s.msg.read (s.processed.toNat + i)).isSome = true) := by
  unfold fillByte
  by_cases h : s.processed.toNat + i < s.L.toNat
  · cases hr : s.msg.read (s.processed.toNat + i) <;> simp [h, readMessage_below h, hr, Except.isOk, Except.toBool]
  · by_cases h2 : s.processed.toNat + i = s.L.toNat <;> simp [h2, Except.isOk, Except.toBool]
    simp [h]

/-- The value of byte `i` of the raw block, as SEG.FILL stores it (R90). -/
theorem fillByte_value (s : State) (i : Nat) :
    (fillByte s i).toOption.getD 0 =
      if s.processed.toNat + i < s.L.toNat then (s.msg.read (s.processed.toNat + i)).getD 0
      else if s.processed.toNat + i = s.L.toNat then 0x80 else 0x00 := by
  unfold fillByte
  by_cases h : s.processed.toNat + i < s.L.toNat
  · cases hr : s.msg.read (s.processed.toNat + i) <;> simp [h, readMessage_below h, hr, Except.toOption]
  · by_cases h2 : s.processed.toNat + i = s.L.toNat <;> simp [h, h2, Except.toOption]

/-- The only refusal of a byte of the raw block is that of an absent message byte: no read is beyond `L` (R51). -/
theorem fillByte_error {s : State} {i : Nat} {r : Refusal} (h : fillByte s i = .error r) : r = .messageByteAbsent := by
  unfold fillByte at h
  by_cases h1 : s.processed.toNat + i < s.L.toNat
  · cases hr : s.msg.read (s.processed.toNat + i) <;> simp [h1, readMessage_below h1, hr] at h
    exact h.symm
  · by_cases h2 : s.processed.toNat + i = s.L.toNat <;> simp [h1, h2] at h

/-- Either every byte of the raw block is there, or one is not and the refusal is that of an absent message byte. -/
theorem fillRefusal_cases (v : Variant) (s : State) :
    ((∀ i < v.bs, (fillByte s i).isOk = true) ∧ fillRefusal v s = none) ∨
    ((∃ i < v.bs, (fillByte s i).isOk = false) ∧ fillRefusal v s = some .messageByteAbsent) := by
  cases hf : fillRefusal v s with
  | none =>
    refine .inl ⟨fun i hi => ?_, rfl⟩
    have := List.findSome?_eq_none_iff.1 hf i (List.mem_range.2 hi)
    cases hb : fillByte s i with
    | ok b => rfl
    | error r => simp [hb] at this
  | some r =>
    obtain ⟨i, hi, h⟩ := List.exists_of_findSome?_eq_some hf
    cases hb : fillByte s i with
    | ok b => simp [hb] at h
    | error r' =>
      simp only [hb, Option.some.injEq] at h
      exact .inr ⟨⟨i, List.mem_range.1 hi, by rw [hb]; rfl⟩, by rw [← h, fillByte_error hb]⟩

/-- SEG.FILL either builds the block or refuses for an absent message byte. -/
theorem segFill_cases (v : Variant) (s : State) :
    ((∀ i < v.bs, (fillByte s i).isOk = true) ∧
      segFill v s = .next ((s.setBlk (setBlock v s.blk (fun i => (fillByte s i).toOption.getD 0))).setPhase .segRoom)) ∨
    ((∃ i < v.bs, (fillByte s i).isOk = false) ∧ segFill v s = .refused .messageByteAbsent) := by
  rcases fillRefusal_cases v s with ⟨h1, h2⟩ | ⟨h1, h2⟩
  · exact .inl ⟨h1, by rw [segFill, h2]⟩
  · exact .inr ⟨h1, by rw [segFill, h2]⟩

/-- SEG.FILL where every byte of the block is available. -/
theorem segFill_runs {v : Variant} {s : State} (h : ∀ i < v.bs, (fillByte s i).isOk = true) :
    segFill v s = .next ((s.setBlk (setBlock v s.blk (fun i => (fillByte s i).toOption.getD 0))).setPhase .segRoom) := by
  rcases segFill_cases v s with ⟨_, h2⟩ | ⟨⟨i, hi, h1⟩, _⟩
  · exact h2
  · exact absurd (h i hi) (by simp [h1])

/-- If SEG.FILL answers a next state, it wrote the block and the phase. -/
theorem segFill_next {v : Variant} {s t : State} (h : segFill v s = .next t) :
    (∀ i < v.bs, (fillByte s i).isOk = true) ∧
      t = (s.setBlk (setBlock v s.blk (fun i => (fillByte s i).toOption.getD 0))).setPhase .segRoom := by
  rcases segFill_cases v s with ⟨h1, h2⟩ | ⟨_, h2⟩
  · rw [h2] at h
    cases h
    exact ⟨h1, rfl⟩
  · rw [h2] at h
    cases h

theorem messageEnded_iff (v : Variant) (s : State) :
    messageEnded v s = true ↔ s.L.toNat ≤ s.processed.toNat + v.bs := decide_eq_true_iff

/-- Room, as one comparison (R91 corner case (a)). -/
theorem roomDecision_iff (v : Variant) (s : State) :
    roomDecision v s = true ↔ s.L.toNat + v.lf + 1 ≤ s.processed.toNat + v.bs := by
  rw [roomDecision, Bool.and_eq_true, messageEnded_iff, decide_eq_true_iff, blockEnd]
  omega

/-- SEG.ROOM has exactly three outcomes (R91 corner case (d)). -/
theorem segRoom_cases (v : Variant) (s : State) :
    (s.L.toNat + v.lf + 1 ≤ s.processed.toNat + v.bs ∧
      segRoom v s = .next ((((s.setRoom true).setPhase .expLoad).setBlk (writeTrailer v s.L s.blk)).setTerminal true)) ∨
    (s.L.toNat ≤ s.processed.toNat + v.bs ∧ s.processed.toNat + v.bs < s.L.toNat + v.lf + 1 ∧
      segRoom v s = .next (((s.setRoom false).setPhase .expLoad).setSynthPending true)) ∨
    (s.processed.toNat + v.bs < s.L.toNat ∧ segRoom v s = .next ((s.setRoom false).setPhase .expLoad)) := by
  by_cases hr : roomDecision v s = true
  · exact .inl ⟨(roomDecision_iff v s).1 hr, by simp [segRoom, hr]⟩
  · have hn : ¬s.L.toNat + v.lf + 1 ≤ s.processed.toNat + v.bs := fun h => hr ((roomDecision_iff v s).2 h)
    by_cases he : messageEnded v s = true
    · exact .inr (.inl ⟨(messageEnded_iff v s).1 he, by omega, by simp [segRoom, hr, he]⟩)
    · have hm : ¬s.L.toNat ≤ s.processed.toNat + v.bs := fun h => he ((messageEnded_iff v s).2 h)
      exact .inr (.inr ⟨by omega, by simp [segRoom, hr, he]⟩)

/-- A byte of the big-endian form, as a number. -/
theorem byteBE_eq {w : Nat} (n : Nat) (x : BitVec w) (j : Nat) :
    byteBE n x j = BitVec.ofNat 8 (x.toNat / 256 ^ (n - 1 - j)) := by
  apply BitVec.eq_of_toNat_eq
  simp [byteBE, Nat.shiftRight_eq_div_pow, Nat.pow_mul]

/-- The bytes of a block after its trailer is written. -/
theorem byteAt_writeTrailer (v : Variant) (L : BitVec 64) (blk : Vector Byte 128) (i : Nat) :
    byteAt (writeTrailer v L blk) i =
      if i < v.bs - v.lf then byteAt blk i
      else if i < v.bs - 8 then 0x00
      else if i < v.bs then BitVec.ofNat 8 (L.toNat * 8 % 2 ^ 64 / 256 ^ (v.bs - 1 - i))
      else byteAt blk i := by
  have hlf := v.lf_lt
  have hge := v.lf_ge
  rw [writeTrailer, byteAt_setBlock, v.lw_eq]
  by_cases h : i < v.bs
  · rw [if_pos h]
    by_cases h1 : i < v.bs - v.lf
    · rw [if_pos h1, if_pos h1]
    · rw [if_neg h1, if_neg h1]
      by_cases h2 : i < v.bs - 8
      · rw [if_pos h2, if_pos h2]
      · rw [if_neg h2, if_neg h2, if_pos h, byteBE_eq]
        have : (bitLength L).toNat = L.toNat * 8 % 2 ^ 64 := by simp [bitLength, BitVec.toNat_mul]
        rw [this, show 8 - 1 - (i - (v.bs - 8)) = v.bs - 1 - i by omega]
  · rw [if_neg h, if_neg (by omega), if_neg (by omega), if_neg h]

theorem byteAt_synthBlock (v : Variant) (L : BitVec 64) (blk : Vector Byte 128) (i : Nat) :
    byteAt (synthBlock v L blk) i =
      if i < v.bs then (if i = 0 ∧ L.toNat % v.bs = 0 then 0x80 else 0x00) else byteAt blk i :=
  byteAt_setBlock v blk _ i

/-- A fresh trailer does not depend on what stood in its place. -/
theorem segSynth_eq (v : Variant) (s : State) :
    segSynth v s = .next ((((s.setBlk (writeTrailer v s.L (synthBlock v s.L s.blk))).setTerminal true).setSynthPending
      false).setPhase .expLoad) := rfl

end Sys2Proof.Machine
end

