-- ==== Sys2Proof/Laws/Step.lean ====
section
/-!
SUPPORT. What a step can do, said once: one equation per phase, and one case analysis for all later proofs.
-/

namespace Sys2Proof.Machine

/-- With a command presented, a step is its acceptance or its refusal. -/
theorem step_presented {s : State} {w : BitVec 65} (h : s.presented = some w) :
    step s = acceptCommand (cmdVariant w) (cmdLength w) s := by
  simp only [step, fetch, h, decodeCmd]
  cases cmdVariant w <;> rfl

/-- The shared operation of a phase for a variant; none in `IDLE` and `DONE`. -/
def phaseStep (v : Variant) (s : State) : Phase → Result
  | .idle => .next s
  | .init => initCompute v s
  | .segFill => segFill v s
  | .segRoom => segRoom v s
  | .segSynth => segSynth v s
  | .expLoad => expLoad v s
  | .expMix => expMix v s
  | .rndSeed => rndSeed v s
  | .rndStep => rndStep v s
  | .accAdd => accAdd v s
  | .serOut => serOut v s
  | .done => .next s

/-- The operation a code selects, in terms of the variant and the phase. -/
theorem run_code (v : Variant) (p : Phase) (s : State) :
    (match (decodeUop (variantBit v ++ phaseCode p)).toOption with
      | some i => exec i s
      | none => .next s) = phaseStep v s p := by
  cases v <;> cases p <;> rfl

/-- With no command presented, a step is the operation of the phase. -/
theorem step_phase {s : State} (h : s.presented = none) : step s = phaseStep (activeVariant s) s s.phase := by
  have hf : fetch s = (decodeUop (uopCode s)).toOption := by simp only [fetch, h]
  rw [step, hf]
  exact run_code (activeVariant s) s.phase s

theorem activeVariant_of_ne {s : State} (h : s.phase ≠ .init) : activeVariant s = s.variant := by
  unfold activeVariant
  split
  · contradiction
  · rfl

/-- What a step that answers a next state did: it accepted a presented command, or performed the phase's operation. -/
theorem step_cases {s t : State} (h : step s = .next t) :
    (∃ w, s.presented = some w ∧ busyFlag s = false ∧ t = ((s.setCmd w).setPhase .init).setPresented none) ∨
    (s.presented = none ∧ phaseStep (activeVariant s) s s.phase = .next t) := by
  cases hp : s.presented with
  | none => exact .inr ⟨rfl, step_phase hp ▸ h⟩
  | some w =>
    obtain ⟨hb, ht⟩ := acceptCommand_next (step_presented hp ▸ h)
    exact .inl ⟨w, rfl, hb, cmdWord_fields w ▸ ht⟩

end Sys2Proof.Machine
end

