-- ==== Sys2Proof/Laws/Run.lean ====
section
/-!
SUPPORT. Runs of several steps: peeling the first step off, and chains of steps through states with `busy = 1`.
-/

namespace Sys2Proof.Machine

/-- A run whose first step is known goes on from there. -/
theorem run_of_step {M : Host.Core} {s s' : M.State} (n : Nat) (h : M.step s = .next s') : M.run (n + 1) s = M.run n s' := by
  simp only [Host.Core.run, h]

/-- A run that answers a next state has a first step that does. -/
theorem run_succ_next {M : Host.Core} {n : Nat} {s t : M.State} (h : M.run (n + 1) s = .next t) :
    ∃ s', M.step s = .next s' ∧ M.run n s' = .next t := by
  simp only [Host.Core.run] at h
  split at h
  · next s' hs => exact ⟨s', hs, h⟩
  · cases h
  · cases h

/-- `n` steps lead from one state to another, each taken in a state with `busy = 1`. -/
inductive BusyRun : Nat → State → State → Prop
  | refl (s : State) : BusyRun 0 s s
  | step {n : Nat} {s s' t : State} : busyFlag s = true → Machine.step s = .next s' → BusyRun n s' t → BusyRun (n + 1) s t

theorem BusyRun.trans {m n : Nat} {s t u : State} (h1 : BusyRun m s t) (h2 : BusyRun n t u) : BusyRun (m + n) s u := by
  induction h1 with
  | refl => rwa [Nat.zero_add]
  | step hb hs _ ih => exact Nat.add_right_comm .. ▸ .step hb hs (ih h2)

theorem BusyRun.one {s t : State} (hb : busyFlag s = true) (h : Machine.step s = .next t) : BusyRun 1 s t :=
  .step hb h (.refl _)

theorem BusyRun.run {n : Nat} {s t : State} (h : BusyRun n s t) : Host.Core.run core n s = .next t := by
  induction h with
  | refl => rfl
  | step _ hs _ ih => exact (run_of_step (M := core) _ hs).trans ih

theorem BusyRun.busy {n : Nat} {s t : State} (h : BusyRun n s t) :
    ∀ m < n, ∃ u, Host.Core.run core m s = .next u ∧ busyFlag u = true := by
  induction h with
  | refl => exact fun m hm => absurd hm (Nat.not_lt_zero m)
  | step hb hs _ ih =>
    intro m hm
    cases m with
    | zero => exact ⟨_, rfl, hb⟩
    | succ m =>
      obtain ⟨u, hu, hbu⟩ := ih m (Nat.lt_of_succ_lt_succ hm)
      exact ⟨u, (run_of_step (M := core) m hs).trans hu, hbu⟩

theorem busy_of_phase {s : State} {p : Phase} (h : s.phase = p) (hp : p ≠ .idle ∧ p ≠ .done) : busyFlag s = true := by
  simp [busyFlag, h, hp.1, hp.2]

/-- With no command presented and outside `INIT`, a step is the phase's operation for the `variant` register. -/
theorem step_at {s : State} {p : Phase} (hn : s.presented = none) (h : s.phase = p) (hp : p ≠ .init) :
    Machine.step s = phaseStep s.variant s p := by
  rw [step_phase hn, activeVariant_of_ne (h ▸ hp), h]

end Sys2Proof.Machine
end

