-- ==== Sys2Proof/Laws/Safety.lean ====
section
/-!
SUPPORT. What `exec` does with the two forms of an operation, and how the trailer of a block comes about and is kept.
-/

namespace Sys2Proof.Safety

open Sys2Proof.Machine

theorem exec_digestCmd (v : Variant) (len : BitVec 64) (s : State) : exec (digestCmd v len) s = acceptCommand v len s := by
  cases v <;> rfl

theorem exec_initOp (v : Variant) (s : State) : exec (initOp v) s = initCompute v s := by cases v <;> rfl

theorem exec_segFillOp (v : Variant) (s : State) : exec (segFillOp v) s = segFill v s := by cases v <;> rfl

theorem exec_segRoomOp (v : Variant) (s : State) : exec (segRoomOp v) s = segRoom v s := by cases v <;> rfl

theorem exec_segSynthOp (v : Variant) (s : State) : exec (segSynthOp v) s = segSynth v s := by cases v <;> rfl

theorem exec_expLoadOp (v : Variant) (s : State) : exec (expLoadOp v) s = expLoad v s := by cases v <;> rfl

theorem exec_expMixOp (v : Variant) (s : State) : exec (expMixOp v) s = expMix v s := by cases v <;> rfl

theorem exec_rndSeedOp (v : Variant) (s : State) : exec (rndSeedOp v) s = rndSeed v s := by cases v <;> rfl

theorem exec_rndStepOp (v : Variant) (s : State) : exec (rndStepOp v) s = rndStep v s := by cases v <;> rfl

theorem exec_accAddOp (v : Variant) (s : State) : exec (accAddOp v) s = accAdd v s := by cases v <;> rfl

theorem exec_serOutOp (v : Variant) (s : State) : exec (serOutOp v) s = serOut v s := by cases v <;> rfl

/-- A block whose trailer has just been written carries it. -/
theorem carriesTrailer_of_written {s t : State} {b : Vector Byte 128} (hv : t.variant = s.variant) (hL : t.L = s.L)
    (hb : t.blk = writeTrailer s.variant s.L b) (hlt : s.L.toNat < 2 ^ 61) : carriesTrailer t := by
  have hlf : s.variant.lf + 1 ≤ s.variant.bs := s.variant.lf_lt
  have hge := s.variant.lf_ge
  unfold carriesTrailer
  rw [hv, hL, hb]
  constructor
  · intro i hi
    rw [byteAt_writeTrailer, if_neg (by omega), if_pos (by omega)]
  · intro j hj
    rw [byteAt_writeTrailer, if_neg (by omega), if_neg (by omega), if_pos (by omega), Nat.mod_eq_of_lt (by omega),
      show s.variant.bs - 1 - (s.variant.bs - 8 + j) = 7 - j by omega]

/-- The trailer is kept where the variant, the length and the block are. -/
theorem carriesTrailer_congr {s t : State} (hv : t.variant = s.variant) (hL : t.L = s.L) (hb : t.blk = s.blk) :
    carriesTrailer t ↔ carriesTrailer s := by
  unfold carriesTrailer
  rw [hv, hL, hb]

end Sys2Proof.Safety
end

