-- ==== Sys2Proof/Tests/Slice0.lean ====
section
/-!
SUPPORT. Tests: the checks of well-formedness, decoding of words written out bit by bit, one step per operation with values
of 95_test_vectors.md, and for every statement a state and operands that meet its hypotheses.
-/

namespace Sys2Proof.Tests

open Sys2Proof.Machine Sys2Proof.Safety

/-- What a field holds after a step that answers a next state. -/
def after {α : Type} (r : Result) (f : State → α) : Option α :=
  match r with
  | .next t => some (f t)
  | .fault _ => none
  | .refused _ => none

/-- The step answers a next state. -/
def goesOn (r : Result) : Bool := (after r fun _ => ()).isSome

/-- The state after reset, put in a phase for a variant. -/
def stateIn (v : Variant) (p : Phase) : State := { State.reset with variant := v, phase := p }

/-- The message "abc". -/
def abc : Memory := Memory.ofBytes 0 [0x61, 0x62, 0x63]

/-! ## Well-formedness: a term each check refuses -/

/-- There is no third variant code (R71). -/
theorem test_wf_refuses_variant_code : RawCommand.wf { variantCode := 2, messageLength := 3 } = false := by decide

/-- A length of `2^64` does not fit `LEN_W = 64` bits (R10). -/
theorem test_wf_refuses_length : RawCommand.wf { variantCode := 0, messageLength := 2 ^ 64 } = false := by decide

/-- The greatest length that fits is taken, and is the command's operand. -/
theorem test_wf_takes_greatest_length :
    RawCommand.toInstr { variantCode := 1, messageLength := 2 ^ 64 - 1 } = some (.digestL (BitVec.allOnes 64)) := by decide

/-- A refused raw command is no command. -/
theorem test_wf_refused_is_no_command : RawCommand.toInstr { variantCode := 2, messageLength := 3 } = none := by decide

/-- `MAX_LEN` outside its range is refused at both ends (R9). -/
theorem test_wf_refuses_max_len : Config.maxLenOk 999999 = false ∧ Config.maxLenOk (2 ^ 61) = false := by decide

/-- `MAX_LEN` at both ends of its range is taken (R9). -/
theorem test_wf_takes_max_len : Config.maxLenOk 1000000 = true ∧ Config.maxLenOk (2 ^ 61 - 1) = true := by decide

/-- The codes of `IDLE`, `DONE` and the unused phases select no operation (R72, R81). -/
theorem test_wf_refuses_codes :
    uopCodeOk 0b00000 = false ∧ uopCodeOk 0b01011 = false ∧ uopCodeOk 0b11100 = false ∧ uopCodeOk 0b11111 = false := by decide

/-- The first and the last micro-operation code (R72). -/
theorem test_wf_takes_codes : uopCodeOk 0b00001 = true ∧ uopCodeOk 0b11010 = true := by decide

/-! ## Decoding: words written out from the encodings of the spec -/

/-- DIGEST.S, bit 64 = 0 (R70): P1's length, and the greatest length. -/
theorem test_decode_digestS : decode [0x03, 0, 0, 0, 0, 0, 0, 0, 0x00] = .ok (.digestS 3) ∧
    decode [0xff, 0xff, 0xff, 0xff, 0xff, 0xff, 0xff, 0xff, 0x00] = .ok (.digestS 0xffffffffffffffff) := by decide

/-- DIGEST.L, bit 64 = 1 (R70): V5's length 1000000 = 0xf4240, and a length with its top bit set. -/
theorem test_decode_digestL : decode [0x40, 0x42, 0x0f, 0, 0, 0, 0, 0, 0x01] = .ok (.digestL 1000000) ∧
    decode [0, 0, 0, 0, 0, 0, 0, 0x80, 0x01] = .ok (.digestL 0x8000000000000000) := by decide

/-- INIT, phase code 0001. -/
theorem test_decode_init : decode [0b00001] = .ok .initS ∧ decode [0b10001] = .ok .initL := by decide

/-- SEG.FILL 0010, SEG.ROOM 0011, SEG.SYNTH 0100. -/
theorem test_decode_segmenter :
    decode [0b00010] = .ok .segFillS ∧ decode [0b10010] = .ok .segFillL ∧ decode [0b00011] = .ok .segRoomS ∧
    decode [0b10011] = .ok .segRoomL ∧ decode [0b00100] = .ok .segSynthS ∧ decode [0b10100] = .ok .segSynthL := by decide

/-- EXP.LOAD 0101, EXP.MIX 0110. -/
theorem test_decode_expander :
    decode [0b00101] = .ok .expLoadS ∧ decode [0b10101] = .ok .expLoadL ∧ decode [0b00110] = .ok .expMixS ∧
    decode [0b10110] = .ok .expMixL := by decide

/-- RND.SEED 0111, RND.STEP 1000. -/
theorem test_decode_round :
    decode [0b00111] = .ok .rndSeedS ∧ decode [0b10111] = .ok .rndSeedL ∧ decode [0b01000] = .ok .rndStepS ∧
    decode [0b11000] = .ok .rndStepL := by decide

/-- ACC.ADD 1001, SER.OUT 1010. -/
theorem test_decode_accumulator :
    decode [0b01001] = .ok .accAddS ∧ decode [0b11001] = .ok .accAddL ∧ decode [0b01010] = .ok .serOutS ∧
    decode [0b11010] = .ok .serOutL := by decide

/-- What is no operation is refused by name (R72, R81; the byte layout, log entry 4). -/
theorem test_decode_refuses :
    decode [0b00000] = .error .idlePhase ∧ decode [0b11011] = .error .donePhase ∧ decode [0b01100] = .error .unusedPhase ∧
    decode [0b11111] = .error .unusedPhase ∧ decode [0b00100001] = .error .codeTooWide ∧
    decode [0, 0, 0, 0, 0, 0, 0, 0, 2] = .error .commandTooWide ∧ decode [] = .error (.wrongLength 0) ∧
    decode [1, 0] = .error (.wrongLength 2) := by decide

/-- The encoder's bytes for a command and a micro-operation. -/
theorem test_encode : encode (.digestL 3) = [0x03, 0, 0, 0, 0, 0, 0, 0, 0x01] ∧ encode .rndStepL = [0b11000] := by decide

/-- A table word by its own width and by whole bytes. -/
theorem test_decodeTableWord : decodeTableWord 65 0x10000000000000003 = some (.digestL 3) ∧
    decodeTableWord 72 0x10000000000000003 = some (.digestL 3) ∧ decodeTableWord 5 0b01010 = some .serOutS ∧
    decodeTableWord 8 0b01010 = some .serOutS := by decide

/-- A placed command is what the next step accepts; a placed micro-operation is what the next step performs. -/
theorem test_withFetchWord : fetch (State.reset.withFetchWord 72 0x10000000000000003) = some (.digestL 3) ∧
    fetch (State.reset.withFetchWord 8 0b10001) = some .initL ∧
    fetch (State.reset.withFetchWord 8 0b00110) = some .expMixS ∧
    fetch (State.reset.withFetchWord 8 0b11000) = some .rndStepL := by decide

/-! ## One step per operation: the vectors of 95_test_vectors.md section 8 (P1, P5), section 6 and section 7 -/

/-- DIGEST.S 3 in `IDLE` (P1). -/
theorem test_digestS : after (exec (.digestS 3) State.reset) (fun t => (t.cmd, t.phase, busyFlag t)) =
    some (0x00000000000000003, .init, true) := by decide

/-- DIGEST.L 1 in `DONE` (P9, second command). -/
theorem test_digestL : after (exec (.digestL 1) (stateIn .short .done)) (fun t => (t.cmd, t.phase, doneFlag t)) =
    some (0x10000000000000001, .init, false) := by decide

/-- INIT.S of P1. -/
theorem test_initS : after (exec .initS { stateIn .long .init with cmd := 0x00000000000000003, terminal := true })
    (fun t => (t.variant, t.messageLength, t.H[0], t.H[7], t.terminal, t.phase)) =
    some (.short, 3, 0x6a09e667, 0x5be0cd19, false, .segFill) := by decide

/-- INIT.L of P5. -/
theorem test_initL : after (exec .initL { stateIn .short .init with cmd := 0x10000000000000003, processed := 64 })
    (fun t => (t.variant, t.messageLength, t.H[0], t.H[7], t.processed, t.phase)) =
    some (.long, 3, 0x6a09e667f3bcc908, 0x5be0cd19137e2179, 0, .segFill) := by decide

/-- SEG.FILL.S of P1: the message, the marker, zeros. -/
theorem test_segFillS : after (exec .segFillS { stateIn .short .segFill with L := 3, msg := abc, blk := Vector.replicate 128 0xaa })
    (fun t => ([byteAt t.blk 0, byteAt t.blk 2, byteAt t.blk 3, byteAt t.blk 4, byteAt t.blk 63], t.phase)) =
    some ([0x61, 0x63, 0x80, 0x00, 0x00], .segRoom) := by decide +kernel

/-- SEG.FILL.L of P5. -/
theorem test_segFillL : after (exec .segFillL { stateIn .long .segFill with L := 3, msg := abc, blk := Vector.replicate 128 0xaa })
    (fun t => ([byteAt t.blk 0, byteAt t.blk 2, byteAt t.blk 3, byteAt t.blk 4, byteAt t.blk 127], t.phase)) =
    some ([0x61, 0x63, 0x80, 0x00, 0x00], .segRoom) := by decide +kernel

/-- SEG.ROOM.S at `L = 55`, room to the byte (PV2): bytes 54 to 63 after it, the marker at 55 left alone. -/
theorem test_segRoomS_room :
    after (exec .segRoomS { stateIn .short .segRoom with L := 55, blk := (Vector.replicate 128 0x46).set 55 0x80 })
      (fun t => ([byteAt t.blk 54, byteAt t.blk 55, byteAt t.blk 56, byteAt t.blk 61, byteAt t.blk 62, byteAt t.blk 63],
        t.room, t.terminal, t.synthPending)) =
    some ([0x46, 0x80, 0x00, 0x00, 0x01, 0xb8], true, true, false) := by decide +kernel

/-- SEG.ROOM.S at `L = 56`, one byte short (PV3). -/
theorem test_segRoomS_no_room : after (exec .segRoomS { stateIn .short .segRoom with L := 56, room := true })
    (fun t => (t.room, t.terminal, t.synthPending, t.phase)) = some (false, false, true, .expLoad) := by decide +kernel

/-- SEG.ROOM.L at `L = 111`, room to the byte (PV8); its length field is 16 bytes (C4). -/
theorem test_segRoomL_room :
    after (exec .segRoomL { stateIn .long .segRoom with L := 111, blk := (Vector.replicate 128 0x7e).set 111 0x80 })
      (fun t => ([byteAt t.blk 110, byteAt t.blk 111, byteAt t.blk 112, byteAt t.blk 125, byteAt t.blk 126, byteAt t.blk 127],
        t.room, t.terminal, t.synthPending)) =
    some ([0x7e, 0x80, 0x00, 0x00, 0x03, 0x78], true, true, false) := by decide +kernel

/-- SEG.ROOM.L at `L = 129`, more raw blocks follow (PV11): no flag is set. -/
theorem test_segRoomL_more : after (exec .segRoomL { stateIn .long .segRoom with L := 129, room := true })
    (fun t => (t.room, t.terminal, t.synthPending, t.phase)) = some (false, false, false, .expLoad) := by decide +kernel

/-- SEG.SYNTH.S at `L = 64`: the marker, and the trailer of 512 bits. -/
theorem test_segSynthS : after (exec .segSynthS { stateIn .short .segSynth with
      L := 64, processed := 64, synthPending := true, blk := Vector.replicate 128 0x4f })
    (fun t => ([byteAt t.blk 0, byteAt t.blk 1, byteAt t.blk 55, byteAt t.blk 62, byteAt t.blk 63],
      t.terminal, t.synthPending, t.processed)) = some ([0x80, 0x00, 0x00, 0x02, 0x00], true, false, 64) := by decide +kernel

/-- SEG.SYNTH.L at `L = 120`: no marker, and the trailer of 960 bits. -/
theorem test_segSynthL : after (exec .segSynthL { stateIn .long .segSynth with
      L := 120, processed := 128, synthPending := true, blk := Vector.replicate 128 0x4f })
    (fun t => ([byteAt t.blk 0, byteAt t.blk 1, byteAt t.blk 111, byteAt t.blk 126, byteAt t.blk 127],
      t.terminal, t.synthPending, t.processed)) = some ([0x00, 0x00, 0x00, 0x03, 0xc0], true, false, 128) := by decide +kernel

/-- The block of "abc" (95_test_vectors.md section 3): the last byte that is not zero stands at the variant's end. -/
def abcBlock (v : Variant) : Vector Byte 128 :=
  Vector.ofFn fun i : Fin 128 =>
    if i.val = 0 then 0x61 else if i.val = 1 then 0x62 else if i.val = 2 then 0x63 else if i.val = 3 then 0x80
    else if i.val + 1 = v.bs then 0x18 else 0x00

/-- EXP.LOAD.S of P1. -/
theorem test_expLoadS : after (exec .expLoadS { stateIn .short .expLoad with blk := abcBlock .short })
    (fun t => (t.t, t.W[0], t.W[1], t.W[15], t.phase)) = some (16, 0x61626380, 0, 0x18, .expMix) := by decide +kernel

/-- EXP.LOAD.L of P5. -/
theorem test_expLoadL : after (exec .expLoadL { stateIn .long .expLoad with blk := abcBlock .long })
    (fun t => (t.t, t.W[0], t.W[1], t.W[15], t.phase)) = some (16, 0x6162638000000000, 0, 0x18, .expMix) := by decide +kernel

/-- EXP.MIX.S, step 52 of P1: the last schedule word, from the words of 95_test_vectors.md section 3. -/
theorem test_expMixS : after (exec .expMixS { stateIn .short .expMix with
      t := 63,
      W := ((((Vector.replicate 80 0).set 61 0x668b2ff8).set 56 0xef57b9cd).set 48 0xfb3e89cb).set 47 0x065c43da })
    (fun t => (t.W[63], t.t, t.phase)) = some (0x12b1edeb, 64, .rndSeed) := by decide +kernel

/-- EXP.MIX.L, step 68 of P5: the last schedule word. -/
theorem test_expMixL : after (exec .expMixL { stateIn .long .expMix with
      t := 79,
      W := ((((Vector.replicate 80 0).set 77 0x464af5671d71c12e).set 72 0xf63d4265cc1c5a78).set 64
        0x5099c3add79f90ec).set 63 0xcc4918b5949206bb })
    (fun t => (t.W[79], t.t, t.phase)) = some (0x92aeeed1a7bcf7d2, 80, .rndSeed) := by decide +kernel

/-- The initial running state of a variant. -/
def initialH (v : Variant) : Vector Slot 8 := stateSlots v (octOf (initialWord v))

/-- RND.SEED.S, step 53 of P1: the ends of the correspondence. -/
theorem test_rndSeedS : after (exec .rndSeedS { stateIn .short .rndSeed with H := initialH .short, t := 64 })
    (fun t => (t.regs.a, t.regs.h, t.t, t.phase)) = some (0x6a09e667, 0x5be0cd19, 0, .rndStep) := by decide +kernel

/-- RND.SEED.L, step 69 of P5. -/
theorem test_rndSeedL : after (exec .rndSeedL { stateIn .long .rndSeed with H := initialH .long, t := 80 })
    (fun t => (t.regs.a, t.regs.h, t.t, t.phase)) = some (0x6a09e667f3bcc908, 0x5be0cd19137e2179, 0, .rndStep) := by
  decide +kernel

/-- RND.STEP.S, step 54 of P1: round 0. -/
theorem test_rndStepS : after (exec .rndStepS { stateIn .short .rndStep with
      W := (Vector.replicate 80 0).set 0 0x61626380,
      regs := { a := 0x6a09e667, b := 0xbb67ae85, c := 0x3c6ef372, d := 0xa54ff53a,
                e := 0x510e527f, f := 0x9b05688c, g := 0x1f83d9ab, h := 0x5be0cd19 } })
    (fun t => (t.regs, t.t, t.phase)) =
    some ({ a := 0x5d6aebcd, b := 0x6a09e667, c := 0xbb67ae85, d := 0x3c6ef372,
            e := 0xfa2a4622, f := 0x510e527f, g := 0x9b05688c, h := 0x1f83d9ab }, 1, .rndStep) := by decide +kernel

/-- RND.STEP.L, step 149 of P5: round 79, the last. -/
theorem test_rndStepL : after (exec .rndStepL { stateIn .long .rndStep with
      t := 79,
      W := (Vector.replicate 80 0).set 79 0x92aeeed1a7bcf7d2,
      regs := { a := 0x10d9c4c4295599f6, b := 0xd67806db8b148677, c := 0x654ef9abec389ca9, d := 0xc8960e6be864b916,
                e := 0x9bb4d39778c07f9e, f := 0x25c96a7768fb2aa3, g := 0xceb9fc3691ce8326, h := 0x995019a6ff3ba3de } })
    (fun t => (t.regs, t.t, t.phase)) =
    some ({ a := 0x73a54f399fa4b1b2, b := 0x10d9c4c4295599f6, c := 0xd67806db8b148677, d := 0x654ef9abec389ca9,
            e := 0xd08446aa79693ed7, f := 0x9bb4d39778c07f9e, g := 0x25c96a7768fb2aa3, h := 0xceb9fc3691ce8326 },
          80, .accAdd) := by decide +kernel

/-- ACC.ADD.S, step 118 of P1: the terminal block. -/
theorem test_accAddS : after (exec .accAddS { stateIn .short .accAdd with
      H := initialH .short, terminal := true,
      regs := { a := 0x506e3058, b := 0xd39a2165, c := 0x04d24d6c, d := 0xb85e2ce9,
                e := 0x5ef50f24, f := 0xfb121210, g := 0x948d25b6, h := 0x961f4894 } })
    (fun t => (t.H.toList, t.processed, t.phase)) =
    some ([0xba7816bf, 0x8f01cfea, 0x414140de, 0x5dae2223, 0xb00361a3, 0x96177a9c, 0xb410ff61, 0xf20015ad], 0, .serOut) := by
  decide +kernel

/-- ACC.ADD.L after a block without room (P7): the cursor advances and the synthetic block is next (R139). -/
theorem test_accAddL_synth : after (exec .accAddL { stateIn .long .accAdd with L := 112, synthPending := true })
    (fun t => (t.processed, t.phase, t.synthPending)) = some (128, .segSynth, true) := by decide +kernel

/-- SER.OUT.S, step 119 of P1: the ends of the digest, and nothing at byte 32. -/
theorem test_serOutS : after (exec .serOutS { stateIn .short .serOut with H := #v[0xba7816bf, 0, 0, 0, 0, 0, 0, 0xf20015ad] })
    (fun t => ((List.range 4).map t.digestOut.read, t.digestOut.read 31, t.digestOut.read 32, doneFlag t, busyFlag t)) =
    some ([some 0xba, some 0x78, some 0x16, some 0xbf], some 0xad, none, true, false) := by decide +kernel

/-- SER.OUT.L, step 151 of P5: the ends of the digest. -/
theorem test_serOutL : after (exec .serOutL { stateIn .long .serOut with
      H := #v[0xddaf35a193617aba, 0, 0, 0, 0, 0, 0, 0x2a9ac94fa54ca49f] })
    (fun t => ([0, 1, 7, 8, 56, 63].map t.digestOut.read, doneFlag t, busyFlag t)) =
    some ([some 0xdd, some 0xaf, some 0xba, some 0x00, some 0x2a, some 0x9f], true, false) := by decide +kernel

/-- The functions on a corner input (95_test_vectors.md section 7). -/
theorem test_functions_short : sigma0 .short 0x61626380 = 0x940e90ef ∧ sigma1 .short 0x61626380 = 0x7da86405 ∧
    bigSigma0 .short 0x61626380 = 0x8dd59276 ∧ bigSigma1 .short 0x61626380 = 0xc0b865f2 := by decide

theorem test_functions_long : sigma0 .long 0x6162638000000000 = 0x3012976480000000 ∧
    sigma1 .long 0x6162638000000000 = 0x0a9699a24c700003 ∧ bigSigma0 .long 0x6162638000000000 = 0x000000060ebc6427 ∧
    bigSigma1 .long 0x6162638000000000 = 0xc0019dd116d0b131 := by decide

/-- Rotation and shift (95_test_vectors.md section 7). -/
theorem test_rotr_shr : rotr 31 (0x80000001 : BitVec 32) = 0x00000003 ∧ shr 7 (0x80000001 : BitVec 32) = 0x01000000 ∧
    rotr 61 (0x8000000000000001 : BitVec 64) = 0x000000000000000c := by decide

/-- The step counts of P1, P4 and P6 (R140). -/
theorem test_step_counts : computationSteps .short 3 = 119 ∧ computationSteps .short 100 = 236 ∧
    computationSteps .long 128 = 299 := by decide

/-! ## Witnesses: a state and operands that meet the hypotheses of each statement, each clause at its bounds -/

theorem witness_DecodeInvertsEncode :
    Instr.wf (.digestS 0) = true ∧ Instr.wf (.digestL (BitVec.allOnes 64)) = true ∧ Instr.wf .serOutL = true := by decide

theorem witness_EncodeInvertsDecode :
    decode [0, 0, 0, 0, 0, 0, 0, 0, 0] = .ok (.digestS 0) ∧ decode [0b11010] = .ok .serOutL := by decide

/-- Command words at both ends of both variants; codes at the ends of the range and beside them. -/
theorem witness_EveryCommandWordIsLegal :
    (BitVec.ofNat 65 (2 ^ 64 - 1)).toNat / 2 ^ 64 = 0 ∧ (BitVec.ofNat 65 (2 ^ 64)).toNat / 2 ^ 64 = 1 ∧
    (BitVec.ofNat 65 (2 ^ 65 - 1)).toNat / 2 ^ 64 = 1 ∧ (decodeUop 1).toOption = some .initS ∧
    (decodeUop 26).toOption = some .serOutL ∧ (decodeUop 16).toOption = none ∧ (decodeUop 27).toOption = none := by decide

/-- A presented command, a phase with an operation, and both phases without one. -/
theorem witness_StepRunsFetchedOperation :
    decode (natToBytes 9 (0x10000000000000003 : BitVec 65).toNat) = .ok (.digestL 3) ∧
    decode (natToBytes 1 (uopCode (stateIn .long .serOut)).toNat) = .ok .serOutL ∧
    State.reset.presented = none ∧ State.reset.phase = .idle ∧ (stateIn .short .done).phase = .done := by decide

theorem witness_PhaseSelectsOperation :
    (stateIn .long .segFill).presented = none ∧ (stateIn .long .segFill).phase ≠ .init ∧
    phaseOp (stateIn .long .segFill).variant (stateIn .long .segFill).phase = some .segFillL ∧
    phaseOp (cmdVariant (stateIn .long .init).cmd) (stateIn .long .init).phase = some .initS := by decide

/-- A step that answers a next state in every phase, both ways out of EXP.MIX, RND.STEP and ACC.ADD, and at an acceptance. -/
theorem witness_PhaseTransitions :
    ([.idle, .init, .segFill, .segRoom, .segSynth, .expLoad, .rndSeed, .accAdd, .serOut, .done].all fun p =>
      goesOn (step (stateIn .short p)) && goesOn (step (stateIn .long p))) = true ∧
    goesOn (step { stateIn .short .expMix with t := 16 }) = true ∧ goesOn (step { stateIn .short .expMix with t := 63 }) = true ∧
    goesOn (step { stateIn .long .rndStep with t := 0 }) = true ∧ goesOn (step { stateIn .long .rndStep with t := 79 }) = true ∧
    goesOn (step { stateIn .long .accAdd with terminal := true }) = true ∧
    goesOn (step { stateIn .short .accAdd with synthPending := true }) = true ∧
    goesOn (step (hostPresent 3 State.reset)) = true ∧ goesOn (step (hostPresent 3 (stateIn .long .done))) = true := by
  decide +kernel

/-- Steps that change a register, for several of its writers. -/
theorem witness_OnlyNamedWritersWrite :
    after (step (hostPresent 3 State.reset)) (fun t => decide (t.cmd ≠ 0)) = some true ∧
    after (step (stateIn .long .init)) (fun t => t.variant) = some .short ∧
    after (step { stateIn .short .accAdd with L := 65 }) (fun t => t.processed) = some 64 ∧
    after (step (stateIn .short .serOut)) (fun t => decide (t.digestOut ≠ [])) = some true := by decide +kernel

theorem witness_CommandAccepted : State.reset.phase = .idle ∧ (stateIn .long .done).phase = .done := by decide

theorem witness_CommandWhileBusyRefused :
    busyFlag (stateIn .short .init) = true ∧ busyFlag (hostPresent 3 (stateIn .long .serOut)) = true ∧
    (hostPresent 3 (stateIn .long .serOut)).presented = some 3 := by decide

theorem witness_InitStartsComputation :
    cmdVariant (stateIn .short .init).cmd = .short ∧
    cmdVariant { stateIn .short .init with cmd := 0x10000000000000003 }.cmd = .long := by decide

/-- A length below the smallest `MAX_LEN`, and two different ones above the greatest. -/
theorem witness_ClampIsSilent :
    (cmdLength 0x000000000000f4240).toNat ≤ Config.maxLen ∧
    Config.maxLen ≤ (cmdLength 0x02000000000000000).toNat ∧ Config.maxLen ≤ (cmdLength 0x0ffffffffffffffff).toNat ∧
    cmdVariant 0x02000000000000000 = .short ∧ cmdVariant 0x0ffffffffffffffff = .short := by
  have h := Config.maxLenOk_maxLen
  simp only [Config.maxLenOk, Bool.and_eq_true, decide_eq_true_eq] at h
  have h1 : (cmdLength 0x000000000000f4240).toNat = 1000000 := by decide
  have h2 : (cmdLength 0x02000000000000000).toNat = 2 ^ 61 := by decide
  have h3 : (cmdLength 0x0ffffffffffffffff).toNat = 2 ^ 64 - 1 := by decide
  exact ⟨by omega, by omega, by omega, by decide, by decide⟩

/-- The bytes of the block are available: an empty message, "abc", and a cursor past the message's end. -/
theorem witness_SegFillBuildsRawBlock :
    (∀ i < Variant.bs .long, (0 : Nat) + i < 0 → (State.reset.msg.read (0 + i)).isSome = true) ∧
    (∀ i < Variant.bs .short, (0 : Nat) + i < 3 → (abc.read (0 + i)).isSome = true) ∧
    (∀ i < Variant.bs .short, (64 : Nat) + i < 3 → (abc.read (64 + i)).isSome = true) := by decide

/-- A message byte short by one: the block's last byte is absent; and a block whose bytes are all there. -/
theorem witness_SegFillRefusesAbsentByte :
    (∃ i < Variant.bs .short, (0 : Nat) + i < 4 ∧ abc.read (0 + i) = none) ∧
    ¬(∃ i < Variant.bs .short, (0 : Nat) + i < 3 ∧ abc.read (0 + i) = none) := by decide

/-- A byte that the caller's memory holds at and beyond `L = 2` is not answered; the last one below is (R51, R67). -/
theorem test_readMessage_bounds :
    readMessage { State.reset with L := 2, msg := abc } 1 = .ok 0x62 ∧
    readMessage { State.reset with L := 2, msg := abc } 2 = .error .messageReadBeyondLength ∧
    readMessage { State.reset with L := 0, msg := abc } 0 = .error .messageReadBeyondLength ∧
    readMessage { State.reset with L := 4, msg := abc } 3 = .error .messageByteAbsent := by decide

/-- A SEG.FILL that answers a next state, with a message byte below `L` in its block. -/
theorem witness_MessageReadRefusedBeyondLength :
    goesOn (exec .segFillS { stateIn .short .segFill with L := 2, msg := abc }) = true ∧
    goesOn (exec .segFillL { stateIn .long .segFill with L := 2, msg := abc }) = true ∧
    (stateIn .short .segFill).processed.toNat + 1 < 2 := by decide +kernel

/-- Two messages that agree below `L = 3` and differ at 3; and states with each of the three outcomes. -/
theorem witness_MessageReadOnlyBelowLength :
    (∀ a < (3 : BitVec 64).toNat, (abc ++ [(3, 0x64)]).read a = abc.read a) ∧ abc ++ [(3, 0x64)] ≠ abc ∧
    goesOn (exec .segFillS { stateIn .short .segFill with L := 3, msg := abc }) = true ∧
    (exec .segFillS { stateIn .short .segFill with L := 4, msg := abc } matches .refused .messageByteAbsent) = true ∧
    (exec .expMixS (stateIn .short .expMix) matches .fault .scheduleIndexOutOfRange) = true := by decide +kernel

/-- The three cases of the room decision where they meet: room to the byte, one byte short, message and block end
together, message one byte past the block. -/
theorem witness_SegRoomDecidesAndFlags :
    (55 ≤ 0 + Variant.bs .short ∧ Variant.lf .short + 1 ≤ 0 + Variant.bs .short - 55) ∧
    (56 ≤ 0 + Variant.bs .short ∧ ¬(Variant.lf .short + 1 ≤ 0 + Variant.bs .short - 56)) ∧
    (64 ≤ 0 + Variant.bs .short ∧ ¬(Variant.lf .short + 1 ≤ 0 + Variant.bs .short - 64)) ∧
    0 + Variant.bs .short < 65 ∧
    (111 ≤ 0 + Variant.bs .long ∧ Variant.lf .long + 1 ≤ 0 + Variant.bs .long - 111) ∧
    (112 ≤ 0 + Variant.bs .long ∧ ¬(Variant.lf .long + 1 ≤ 0 + Variant.bs .long - 112)) ∧ 0 + Variant.bs .long < 129 := by
  decide

/-- With and without the marker, at the ends of the range of `L`. -/
theorem witness_SynthBlockIsFillThenRoom :
    (0 < 64 ∧ 64 % Variant.bs .short = 0 ∧ 64 ≤ 64 ∧ 64 < 64 + Variant.bs .short) ∧
    (0 < 1 ∧ 64 % Variant.bs .short = 0 ∧ 1 ≤ 64 ∧ 64 < 1 + Variant.bs .short) ∧
    (0 < 112 ∧ 128 % Variant.bs .long = 0 ∧ 112 ≤ 128 ∧ 128 < 112 + Variant.bs .long) := by decide

/-- The last raw block of an empty message, of one that ends with its block, and of one that goes one byte further. -/
theorem witness_SyntheticBlockExactlyAtEdgeLengths :
    (0 % Variant.bs .short = 0 ∧ (0 < 0 ∨ 0 = 0 ∧ 0 = 0) ∧ 0 ≤ 0 + Variant.bs .short) ∧
    (0 % Variant.bs .short = 0 ∧ (0 < 64 ∨ 0 = 0 ∧ 64 = 0) ∧ 64 ≤ 0 + Variant.bs .short) ∧
    (128 % Variant.bs .long = 0 ∧ (128 < 129 ∨ 128 = 0 ∧ 129 = 0) ∧ 129 ≤ 128 + Variant.bs .long) ∧
    (∀ L ∈ [1, 55, 56, 63, 64], (0 < L ∨ 0 = 0 ∧ L = 0) ∧ L ≤ 0 + Variant.bs .short) ∧
    (∀ L ∈ [1, 111, 112, 127, 128], (0 < L ∨ 0 = 0 ∧ L = 0) ∧ L ≤ 0 + Variant.bs .long) ∧
    (stateIn .short .segRoom).synthPending = false := by decide

theorem witness_PaddedLengthIsSmallestMultiple :
    56 + 1 + Variant.lf .short ≤ 2 * Variant.bs .short ∧ ¬(56 + 1 + Variant.lf .short ≤ 1 * Variant.bs .short) := by decide

/-- A raw block at cursor 0 (empty message, "abc") and one at cursor 64; a synthetic one with and without the marker. -/
theorem witness_BlocksArePaddedMessage :
    rawBlockDue (stateIn .short .segFill) ∧ messageAvailable (stateIn .short .segFill) 0 ∧
    rawBlockDue { stateIn .long .segFill with L := 3, msg := abc } ∧
    messageAvailable { stateIn .long .segFill with L := 3, msg := abc } 3 ∧
    rawBlockDue { stateIn .short .segFill with L := 65, processed := 64 } ∧ (64 : BitVec 64).toNat = 1 * Variant.bs .short ∧
    (0 < 64 ∧ 64 ≤ 64 ∧ 64 ≤ 64 + Variant.lf .short) ∧ (0 < 56 ∧ 56 ≤ 64 ∧ 64 ≤ 56 + Variant.lf .short) := by
  unfold rawBlockDue messageAvailable
  decide

/-- The first and the last counter of EXP.MIX for both variants. -/
theorem witness_ExpMixComputesNextWord :
    (16 ≤ (16 : BitVec 7).toNat ∧ (16 : BitVec 7).toNat ≤ Variant.nr .short - 1) ∧
    (16 ≤ (63 : BitVec 7).toNat ∧ (63 : BitVec 7).toNat ≤ Variant.nr .short - 1) ∧
    (16 ≤ (79 : BitVec 7).toNat ∧ (79 : BitVec 7).toNat ≤ Variant.nr .long - 1) := by decide

/-- Both sides of each stop's condition. -/
theorem witness_PreconditionStops :
    (exec .expMixS { stateIn .short .expMix with t := 15 } matches .fault .scheduleIndexOutOfRange) = true ∧
    (exec .expMixS { stateIn .short .expMix with t := 64 } matches .fault .scheduleIndexOutOfRange) = true ∧
    goesOn (exec .expMixL { stateIn .long .expMix with t := 64 }) = true ∧
    (exec .rndStepL { stateIn .long .rndStep with t := 80 } matches .fault .roundIndexOutOfRange) = true ∧
    goesOn (exec .rndStepL { stateIn .long .rndStep with t := 64 }) = true ∧
    (exec .accAddS { stateIn .short .accAdd with processed := BitVec.ofNat 64 (2 ^ 64 - 64) } matches
      .fault .cursorOverflow) = true ∧
    goesOn (exec .accAddS { stateIn .short .accAdd with processed := BitVec.ofNat 64 (2 ^ 64 - 65) }) = true := by
  decide +kernel

theorem witness_RotateAndShiftBits : 0 < 1 ∧ 1 < 32 ∧ 0 < 63 ∧ 63 < 64 := by decide

/-- Both sides of the shift's bound, for both variants. -/
theorem witness_SmallSigmaBits : 0 + 3 < 32 ∧ ¬31 + 3 < 32 ∧ 53 + 10 < 64 ∧ ¬58 + 6 < 64 := by decide

theorem witness_ScheduleCompleted :
    (stateIn .short .expLoad).phase = .expLoad ∧ (stateIn .long .expLoad).presented = none := by decide

theorem witness_RoundsCompleted :
    (stateIn .short .rndSeed).phase = .rndSeed ∧ (stateIn .long .rndSeed).presented = none := by decide

/-- The first and the last counter of RND.STEP for both variants. -/
theorem witness_RndStepPerformsRound :
    (0 : BitVec 7).toNat ≤ Variant.nr .short - 1 ∧ (63 : BitVec 7).toNat ≤ Variant.nr .short - 1 ∧
    (79 : BitVec 7).toNat ≤ Variant.nr .long - 1 := by decide

/-- A terminal block, and the greatest cursor that still fits. -/
theorem witness_AccAddFoldsBlock :
    { stateIn .short .accAdd with terminal := true }.terminal = true ∧
    (BitVec.ofNat 64 (2 ^ 64 - 129)).toNat + Variant.bs .long < 2 ^ 64 ∧ (stateIn .long .accAdd).terminal = false := by decide

/-- The last digest byte of each variant and the first beyond it. -/
theorem witness_DigestReadOnlyWhenDone :
    (stateIn .short .done).phase = .done ∧ (stateIn .short .done).presented = none ∧ State.reset.phase ≠ .done ∧
    31 < Variant.ds .short ∧ Variant.ds .short ≤ 32 ∧ 63 < Variant.ds .long ∧ Variant.ds .long ≤ 64 := by decide

/-- States that have the invariant: the clauses that do not speak of `MAX_LEN` are checked by evaluation. -/
theorem inv_of_empty {s : State} (hm : s.msg.wf) (hd : s.digestOut = []) (hL : s.L = 0)
    (ha : s.processed.toNat % s.variant.bs = 0) (hn : ¬(s.terminal = true ∧ s.synthPending = true))
    (hl : s.phase ≠ .init → s.variant = cmdVariant s.cmd ∧ s.messageLength = 0 ∧ cmdLength s.cmd = 0)
    (ht : s.phase ≠ .init → s.terminal = true → carriesTrailer s) (hp : phaseFacts s) : Inv s where
  msgWf := hm
  digestWf := hd ▸ List.Pairwise.nil
  digestRange := fun c hc => absurd (hd ▸ hc) (by simp)
  bounded := by simp [hL]
  aligned := ha
  notBoth := hn
  latched := fun h => by
    obtain ⟨h1, h2, h3⟩ := hl h
    exact ⟨h1, h2.trans h3.symm, by simp [hL, h2]⟩
  trailer := ht
  position := hp

/-- The invariant in `INIT`. -/
theorem inv_init : Inv (stateIn .long .init) :=
  inv_of_empty (by decide) rfl rfl (by decide) (by decide) (by decide) (fun h => absurd rfl h) trivial

/-- The invariant in `SEG_FILL`, on the empty message. -/
theorem inv_segFill : Inv (stateIn .short .segFill) :=
  inv_of_empty (by decide) rfl rfl (by decide) (by decide) (by decide) (fun _ h => absurd h (by decide))
    ⟨rfl, rfl, .inr ⟨rfl, rfl⟩⟩

/-- The invariant in `SER_OUT`, after the terminal block of the empty message. -/
theorem inv_serOut : Inv { stateIn .short .serOut with terminal := true } :=
  inv_of_empty (by decide) rfl rfl (by decide) (by decide) (by decide)
    (fun _ _ => by unfold carriesTrailer; decide +kernel) rfl

/-- The invariant in `EXP_MIX`, at the first counter of it. -/
theorem inv_expMix : Inv { stateIn .short .expMix with terminal := true, t := 16 } :=
  inv_of_empty (by decide) rfl rfl (by decide) (by decide) (by decide)
    (fun _ _ => by unfold carriesTrailer; decide +kernel)
    ⟨⟨fun h => absurd h (by decide), fun h => absurd h (by decide), fun h => absurd h (by decide)⟩, by decide, by decide⟩

theorem witness_StepKeepsInvariant :
    (Inv (stateIn .long .init) ∧ goesOn (step (stateIn .long .init)) = true) ∧
    (Inv (stateIn .short .segFill) ∧ goesOn (step (stateIn .short .segFill)) = true) ∧
    (Inv { stateIn .short .expMix with terminal := true, t := 16 } ∧
      goesOn (step { stateIn .short .expMix with terminal := true, t := 16 }) = true) ∧
    Inv { stateIn .short .serOut with terminal := true } ∧
      goesOn (step { stateIn .short .serOut with terminal := true }) = true :=
  ⟨⟨inv_init, by decide +kernel⟩, ⟨inv_segFill, by decide +kernel⟩, ⟨inv_expMix, by decide +kernel⟩, inv_serOut,
    by decide +kernel⟩

/-- A message is loaded into a state of the invariant that is not busy; and a busy state of the invariant. -/
theorem witness_HostActsKeepInvariant :
    (∃ s, Inv s ∧ goesOn (hostLoadMessage [0x61, 0x62, 0x63] s) = true) ∧
    Inv (stateIn .long .init) ∧ busyFlag (stateIn .long .init) = true :=
  ⟨⟨{ stateIn .short .idle with t := 5 },
    inv_of_empty (by decide) rfl rfl (by decide) (by decide) (by decide) (fun _ h => absurd h (by decide)) trivial,
    by decide⟩, inv_init, by decide⟩

theorem witness_SegmenterFacts :
    (Inv (stateIn .short .segFill) ∧ (stateIn .short .segFill).phase = .segFill) ∧
    Inv { stateIn .short .serOut with terminal := true } ∧ { stateIn .short .serOut with terminal := true }.phase = .serOut :=
  ⟨⟨inv_segFill, rfl⟩, inv_serOut, rfl⟩

/-- The invariant with the host's duties kept, and with a command presented while `busy = 1`. -/
theorem witness_StopsOnlyOnHostBreach :
    (Inv (stateIn .short .segFill) ∧ hostKeepsDuties (stateIn .short .segFill)) ∧
    Inv (hostPresent 3 (stateIn .long .init)) ∧ ¬hostKeepsDuties (hostPresent 3 (stateIn .long .init)) := by
  refine ⟨⟨inv_segFill, by unfold hostKeepsDuties; decide⟩, ?_, by unfold hostKeepsDuties; decide⟩
  obtain ⟨i1, i2, i3, i4, i5, i6, i7, i8, i9⟩ := inv_init
  exact ⟨i1, i2, i3, i4, i5, i6, i7, i8, i9⟩

/-- A command of length 3 leads to `L = 3`, whatever `MAX_LEN` is. -/
theorem effectiveLength_three : effectiveLength 0x00000000000000003 = 3 ∧ effectiveLength 0x10000000000000003 = 3 := by
  have h := Config.maxLenOk_maxLen
  simp only [Config.maxLenOk, Bool.and_eq_true, decide_eq_true_eq] at h
  have h1 : (cmdLength 0x00000000000000003).toNat = 3 := by decide
  have h2 : (cmdLength 0x10000000000000003).toNat = 3 := by decide
  unfold effectiveLength
  omega

/-- P1 and P5: the command of length 3 in `IDLE` and in `DONE`, with "abc" available. -/
theorem witness_ComputationReachesDigest :
    (hostPresent 3 { State.reset with msg := abc }).phase = .idle ∧
    (hostPresent 3 { State.reset with msg := abc }).presented = some 3 ∧
    messageAvailable (hostPresent 3 { State.reset with msg := abc }) (effectiveLength 3) ∧
    (hostPresent 0x10000000000000003 { stateIn .short .done with msg := abc }).phase = .done ∧
    messageAvailable (hostPresent 0x10000000000000003 { stateIn .short .done with msg := abc })
      (effectiveLength 0x10000000000000003) := by
  refine ⟨rfl, rfl, ?_, rfl, ?_⟩
  · rw [effectiveLength_three.1]
    unfold messageAvailable
    decide
  · rw [effectiveLength_three.2]
    unfold messageAvailable
    decide

/-- The same command in `IDLE` after reset and in `DONE` with other registers and a longer message, and a run of one step. -/
theorem witness_DigestIndependentOfEarlierState :
    (∀ i < effectiveLength 3, abc.read i = (abc ++ [(3, 0x64)]).read i) ∧ 0 < 1 ∧
    (∃ t, Host.Core.run core 1 (hostPresent 3 { State.reset with msg := abc }) = .next t) ∧
    (hostPresent 3 { stateIn .long .done with msg := abc ++ [(3, 0x64)], L := 7, t := 9 }).phase = .done ∧
    cmdVariant 3 = cmdVariant 3 ∧ effectiveLength 3 = effectiveLength 3 := by
  refine ⟨?_, by decide, ⟨_, rfl⟩, rfl, rfl, rfl⟩
  rw [effectiveLength_three.1]
  decide

end Sys2Proof.Tests
end

/-! ## The message is read below `L` only (20_memory.md R51) -/

namespace Sys2Proof.Machine

/-- The outcome with another message in its next state; a fault or a refusal is unchanged. -/
def outcomeWithMsg (m : Memory) : Result → Result
  | .next t => .next (t.setMsg m)
  | .fault f => .fault f
  | .refused r => .refused r

/-! ### SEG.FILL, the one operation that reads the message -/

/-- A byte of the raw block depends on the cursor, on `L` and on the message below `L`. -/
theorem fillByte_congr {s s' : State} (hp : s'.processed = s.processed) (hL : s'.L = s.L)
    (hm : ∀ a < s.L.toNat, s'.msg.read a = s.msg.read a) (i : Nat) : fillByte s' i = fillByte s i := by
  unfold fillByte
  rw [hp, hL]
  by_cases h : s.processed.toNat + i < s.L.toNat
  · rw [if_pos h, if_pos h, readMessage_below h, readMessage_below (hL ▸ h), hm _ h]
  · rw [if_neg h, if_neg h]

/-- Where the bytes of the raw block agree, so does the refusal. -/
theorem fillRefusal_congr {s s' : State} (h : ∀ i, fillByte s' i = fillByte s i) (v : Variant) :
    fillRefusal v s' = fillRefusal v s := by
  simp only [fillRefusal, h]

theorem segFill_setMsg (v : Variant) {s : State} {m : Memory} (hm : ∀ a < s.L.toNat, m.read a = s.msg.read a) :
    segFill v (s.setMsg m) = outcomeWithMsg m (segFill v s) := by
  have hb : ∀ i, fillByte (s.setMsg m) i = fillByte s i := fillByte_congr rfl rfl hm
  have hr : fillRefusal v (s.setMsg m) = fillRefusal v s := fillRefusal_congr hb v
  cases hf : fillRefusal v s with
  | none => simp only [segFill, hr, hf, hb]; rfl
  | some r => simp only [segFill, hr, hf]; rfl

/-! ### The operations that do not read it: any message may take its place -/

theorem acceptCommand_setMsg (v : Variant) (len : BitVec 64) (s : State) (m : Memory) :
    acceptCommand v len (s.setMsg m) = outcomeWithMsg m (acceptCommand v len s) := by
  have hs : busyFlag (s.setMsg m) = busyFlag s := rfl
  cases hb : busyFlag s with
  | false => rw [acceptCommand_runs hb, acceptCommand_runs (hs.trans hb)]; rfl
  | true => rw [acceptCommand_refuses hb, acceptCommand_refuses (hs.trans hb)]; rfl

theorem initCompute_setMsg (v : Variant) (s : State) (m : Memory) :
    initCompute v (s.setMsg m) = outcomeWithMsg m (initCompute v s) := rfl

theorem segSynth_setMsg (v : Variant) (s : State) (m : Memory) :
    segSynth v (s.setMsg m) = outcomeWithMsg m (segSynth v s) := rfl

theorem expLoad_setMsg (v : Variant) (s : State) (m : Memory) :
    expLoad v (s.setMsg m) = outcomeWithMsg m (expLoad v s) := rfl

theorem rndSeed_setMsg (v : Variant) (s : State) (m : Memory) :
    rndSeed v (s.setMsg m) = outcomeWithMsg m (rndSeed v s) := rfl

theorem serOut_setMsg (v : Variant) (s : State) (m : Memory) :
    serOut v (s.setMsg m) = outcomeWithMsg m (serOut v s) := rfl

theorem segRoom_setMsg (v : Variant) (s : State) (m : Memory) :
    segRoom v (s.setMsg m) = outcomeWithMsg m (segRoom v s) := by
  have hr : roomDecision v (s.setMsg m) = roomDecision v s := rfl
  have he : messageEnded v (s.setMsg m) = messageEnded v s := rfl
  unfold segRoom
  rw [hr, he]
  cases roomDecision v s with
  | true => rfl
  | false => cases messageEnded v s <;> rfl

theorem expMix_setMsg (v : Variant) (s : State) (m : Memory) :
    expMix v (s.setMsg m) = outcomeWithMsg m (expMix v s) := by
  by_cases h : 16 ≤ s.t.toNat ∧ s.t.toNat < v.nr
  · rw [expMix_runs h, expMix_runs (s := s.setMsg m) h]; rfl
  · rw [expMix_stops h, expMix_stops (s := s.setMsg m) h]; rfl

theorem rndStep_setMsg (v : Variant) (s : State) (m : Memory) :
    rndStep v (s.setMsg m) = outcomeWithMsg m (rndStep v s) := by
  by_cases h : s.t.toNat < v.nr
  · rw [rndStep_runs h, rndStep_runs (s := s.setMsg m) h]; rfl
  · rw [rndStep_stops h, rndStep_stops (s := s.setMsg m) h]; rfl

theorem accAdd_setMsg (v : Variant) (s : State) (m : Memory) :
    accAdd v (s.setMsg m) = outcomeWithMsg m (accAdd v s) := by
  cases ht : s.terminal with
  | true => rw [accAdd_terminal ht, accAdd_terminal (s := s.setMsg m) ht]; rfl
  | false =>
    by_cases hc : s.processed.toNat + v.bs < 2 ^ 64
    · rw [accAdd_more ht hc, accAdd_more (s := s.setMsg m) ht hc]; rfl
    · rw [accAdd_stops ht hc, accAdd_stops (s := s.setMsg m) ht hc]; rfl

/-! ### Every operation -/

/-- An operation commutes with replacing the message by one that agrees with it below `L`. -/
theorem exec_setMsg (i : Instr) {s : State} {m : Memory} (hm : ∀ a < s.L.toNat, m.read a = s.msg.read a) :
    exec i (s.setMsg m) = outcomeWithMsg m (exec i s) := by
  cases i with
  | digestS len => exact acceptCommand_setMsg .short len s m
  | digestL len => exact acceptCommand_setMsg .long len s m
  | initS => exact initCompute_setMsg .short s m
  | initL => exact initCompute_setMsg .long s m
  | segFillS => exact segFill_setMsg .short hm
  | segFillL => exact segFill_setMsg .long hm
  | segRoomS => exact segRoom_setMsg .short s m
  | segRoomL => exact segRoom_setMsg .long s m
  | segSynthS => exact segSynth_setMsg .short s m
  | segSynthL => exact segSynth_setMsg .long s m
  | expLoadS => exact expLoad_setMsg .short s m
  | expLoadL => exact expLoad_setMsg .long s m
  | expMixS => exact expMix_setMsg .short s m
  | expMixL => exact expMix_setMsg .long s m
  | rndSeedS => exact rndSeed_setMsg .short s m
  | rndSeedL => exact rndSeed_setMsg .long s m
  | rndStepS => exact rndStep_setMsg .short s m
  | rndStepL => exact rndStep_setMsg .long s m
  | accAddS => exact accAdd_setMsg .short s m
  | accAddL => exact accAdd_setMsg .long s m
  | serOutS => exact serOut_setMsg .short s m
  | serOutL => exact serOut_setMsg .long s m

/-- Settles O16: SEG.FILL reads the message below `L` only and no other operation reads it, so every operation commutes
with the replacement, whichever of the three outcomes it has. -/
theorem messageReadOnlyBelowLength : Obligations.MessageReadOnlyBelowLength := by
  intro i s m hm
  have hx : exec i { s with msg := m } = outcomeWithMsg m (exec i s) := exec_setMsg i hm
  exact ⟨fun t h => hx.trans (congrArg (outcomeWithMsg m) h), fun r h => hx.trans (congrArg (outcomeWithMsg m) h),
    fun f h => hx.trans (congrArg (outcomeWithMsg m) h)⟩

end Sys2Proof.Machine

/-! ## The schedule words of a block (41_schedule_expander.md R105, R106) -/

namespace Sys2Proof.Machine

/-- The frame of the Schedule Expander: its writes leave every register but `W`, `t` and `phase` (Writes lists of R105 and
R106). -/
theorem State.expander_frame (s : State) (W : Vector Slot 80) (t : BitVec 7) (p : Phase) :
    ((s.setW W).setT t).setPhase p = { s with W := W, t := t, phase := p } := rfl

/-- The word of a cell that was written with a word of the variant. -/
theorem wordAt_of_cell {v : Variant} {n i : Nat} {xs : Vector Slot n} {x : Word v} (h : xs[i]? = some (toSlot v x)) :
    wordAt v xs i = x := by
  simp [wordAt, h]

/-! ### EXP.LOAD -/

/-- The schedule after EXP.LOAD. -/
def loadedSchedule (v : Variant) (s : State) : Vector Slot 80 :=
  Vector.ofFn (fun i : Fin 80 => if i.val < 16 then toSlot v (nativeWord v s.blk i.val) else s.W[i])

theorem expLoad_runs (v : Variant) (s : State) :
    expLoad v s = .next (((s.setW (loadedSchedule v s)).setT 16).setPhase .expMix) := rfl

theorem wordAt_loadedSchedule (v : Variant) (s : State) {i : Nat} (h : i < 16) :
    wordAt v (loadedSchedule v s) i = nativeWord v s.blk i :=
  wordAt_of_cell ((expLoad_cells v s i).trans (if_pos h))

theorem loadedSchedule_above (v : Variant) (s : State) {i : Nat} (h : 16 ≤ i) : (loadedSchedule v s)[i]? = s.W[i]? :=
  (expLoad_cells v s i).trans (if_neg (Nat.not_lt.2 h))

/-- Settles O23: EXP.LOAD runs in every state, and the packing of the bytes of a native word is their big-endian value. -/
theorem expLoadPacksNativeWords : Obligations.ExpLoadPacksNativeWords := by
  intro v s
  refine ⟨_, (Safety.exec_expLoadOp v s).trans (expLoad_runs v s), State.expander_frame s _ _ _, ?_, ?_⟩
  · intro i hi
    exact (congrArg BitVec.toNat (wordAt_loadedSchedule v s hi)).trans (toNat_nativeWord v s.blk i)
  · intro i hi
    exact loadedSchedule_above v s hi

/-! ### EXP.MIX -/

/-- The three additions modulo the word width are one sum, reduced once. -/
theorem toNat_mixWord (v : Variant) (W : Vector Slot 80) (t : Nat) :
    (mixWord v W t).toNat =
      ((sigma1 v (wordAt v W (t - 2))).toNat + (wordAt v W (t - 7)).toNat + (sigma0 v (wordAt v W (t - 15))).toNat +
        (wordAt v W (t - 16)).toNat) % 2 ^ v.ww := by
  simp only [mixWord, BitVec.toNat_add, Nat.mod_add_mod]

/-- Settles O24: inside its range EXP.MIX writes cell `t` only, with the new word, and the counter does not wrap. -/
theorem expMixComputesNextWord : Obligations.ExpMixComputesNextWord := by
  intro v s h16 hle
  have hlt : s.t.toNat < v.nr := Nat.lt_of_le_pred (Nat.zero_lt_of_lt v.nr_gt) hle
  have hcount : (s.t + 1).toNat = s.t.toNat + 1 := counter_succ hlt
  have hword := wordAt_set_same v s.W s.t.toNat (mixWord v s.W s.t.toNat) (Nat.lt_of_lt_of_le hlt v.nr_le)
  refine ⟨_, (Safety.exec_expMixOp v s).trans (expMix_runs ⟨h16, hlt⟩), State.expander_frame s _ _ _, ?_, hcount, ?_, ?_⟩
  · exact (congrArg BitVec.toNat hword).trans (toNat_mixWord v s.W s.t.toNat)
  · simp only [State.setPhase_phase, State.setPhase_t, State.setT_t, hcount]
  · intro i hi
    exact getElem?_set_other s.W _ hi

end Sys2Proof.Machine

/-! ## The Compression Round (42_compression_round.md R115 to R118) -/

namespace Sys2Proof.Machine

/-! ### `Ch` and `Maj` -/

/-- The bit of `x` selects: `x` and its complement each keep one of the two terms of R117 and clear the other. -/
theorem getLsbD_ch {w : Nat} (x y z : BitVec w) {i : Nat} (h : i < w) :
    (ch x y z).getLsbD i = if x.getLsbD i then y.getLsbD i else z.getLsbD i := by
  simp only [ch, BitVec.getLsbD_xor, BitVec.getLsbD_and, BitVec.getLsbD_not, h]
  cases x.getLsbD i with
  | false => simp
  | true => simp

/-- The exclusive or of the three pairwise conjunctions is the majority. -/
theorem majority_bool (a b c : Bool) :
    ((a && b) ^^ (a && c) ^^ (b && c)) = decide (2 ≤ a.toNat + b.toNat + c.toNat) := by
  revert a b c
  decide

theorem getLsbD_maj {w : Nat} (x y z : BitVec w) (i : Nat) :
    (maj x y z).getLsbD i = decide (2 ≤ (x.getLsbD i).toNat + (y.getLsbD i).toNat + (z.getLsbD i).toNat) := by
  simp only [maj, BitVec.getLsbD_xor, BitVec.getLsbD_and]
  exact majority_bool _ _ _

/-- Settles O29: bit `i` of `Ch` is selected by bit `i` of `x`, and bit `i` of `Maj` is the majority of the three bits. -/
theorem chooseAndMajorityBits : Obligations.ChooseAndMajorityBits := by
  intro w x y z i h
  exact ⟨getLsbD_ch x y z h, getLsbD_maj x y z i⟩

/-! ### RND.SEED and RND.STEP -/

/-- The frame of the Compression Round: its writes leave every register but `a` to `h`, `t` and `phase` (Writes lists of
R115 and R116). -/
theorem State.round_frame (s : State) (r : Oct Slot) (t : BitVec 7) (p : Phase) :
    ((s.setRegs r).setT t).setPhase p = { s with regs := r, t := t, phase := p } := rfl

theorem rndSeed_runs (v : Variant) (s : State) :
    rndSeed v s = .next (((s.setRegs (regSlots v (stateWords v s.H))).setT 0).setPhase .rndStep) := rfl

/-- The correspondence of R25: the `i`-th of the named words is word `i` of the running state. -/
theorem stateWords_getD (v : Variant) (H : Vector Slot 8) {i : Nat} (h : i < 8) :
    (stateWords v H).toList.getD i 0 = wordAt v H i := by
  interval_cases i <;> rfl

/-- Settles O31: RND.SEED runs in every state, and the registers read back as the words of the running state. -/
theorem rndSeedCopiesRunningState : Obligations.RndSeedCopiesRunningState := by
  intro v s
  refine ⟨_, (Safety.exec_rndSeedOp v s).trans (rndSeed_runs v s), State.round_frame s _ _ _, ?_⟩
  intro i hi
  simp only [State.setPhase_regs, State.setT_regs, State.setRegs_regs, regWords_regSlots]
  exact stateWords_getD v s.H hi

/-- `T1` of the round with constant `k` and schedule word `w` (R116). -/
def roundT1 (v : Variant) (k w : Word v) (r : Oct (Word v)) : Word v := r.h + bigSigma1 v r.e + ch r.e r.f r.g + k + w

/-- `T2` of the round (R116). -/
def roundT2 (v : Variant) (r : Oct (Word v)) : Word v := bigSigma0 v r.a + maj r.a r.b r.c

/-- The round through `T1` and `T2`, register by register (R116). -/
theorem roundWords_eq (v : Variant) (k w : Word v) (r : Oct (Word v)) :
    roundWords v k w r =
      { a := roundT1 v k w r + roundT2 v r, b := r.a, c := r.b, d := r.c
        e := r.d + roundT1 v k w r, f := r.e, g := r.f, h := r.g } := rfl

/-- The four additions of `T1` modulo the word width are one sum, reduced once. -/
theorem toNat_roundT1 (v : Variant) (k w : Word v) (r : Oct (Word v)) :
    (roundT1 v k w r).toNat =
      (r.h.toNat + (bigSigma1 v r.e).toNat + (ch r.e r.f r.g).toNat + k.toNat + w.toNat) % 2 ^ v.ww := by
  simp only [roundT1, BitVec.toNat_add, Nat.mod_add_mod]

theorem toNat_roundT2 (v : Variant) (r : Oct (Word v)) :
    (roundT2 v r).toNat = ((bigSigma0 v r.a).toNat + (maj r.a r.b r.c).toNat) % 2 ^ v.ww :=
  BitVec.toNat_add _ _

/-- Settles O32: inside its range RND.STEP writes the registers with the words of one round, and the counter does not
wrap. -/
theorem rndStepPerformsRound : Obligations.RndStepPerformsRound := by
  intro v s hle r T1 T2
  have hlt : s.t.toNat < v.nr := Nat.lt_of_le_pred (Nat.zero_lt_of_lt v.nr_gt) hle
  have hcount : (s.t + 1).toNat = s.t.toNat + 1 := counter_succ hlt
  have hT1 : (roundT1 v (roundConst v s.t.toNat) (wordAt v s.W s.t.toNat) r).toNat = T1 := toNat_roundT1 v _ _ r
  have hT2 : (roundT2 v r).toNat = T2 := toNat_roundT2 v r
  refine ⟨_, (Safety.exec_rndStepOp v s).trans (rndStep_runs hlt), State.round_frame s _ _ _, ?_⟩
  simp only [State.setPhase_regs, State.setT_regs, State.setRegs_regs, regWords_regSlots, roundWords_eq,
    State.setPhase_phase, State.setPhase_t, State.setT_t, hcount]
  refine ⟨?_, rfl, rfl, rfl, ?_, rfl, rfl, rfl, trivial, trivial⟩
  · exact (BitVec.toNat_add _ _).trans (by rw [hT1, hT2])
  · exact (BitVec.toNat_add _ _).trans (by rw [hT1])

end Sys2Proof.Machine

/-! ## The command and INIT (44_sequencer_and_digest_command.md R138, R143) -/

namespace Sys2Proof.Machine

/-- Settles O10: a DIGEST of either variant is refused by `busy = 1` alone, and a step with a command presented is that
command's acceptance. -/
theorem commandWhileBusyRefused : Obligations.CommandWhileBusyRefused := by
  intro s hbusy
  refine ⟨fun v len => ?_, fun w hw => ?_⟩
  · exact (Safety.exec_digestCmd v len s).trans (acceptCommand_refuses hbusy)
  · exact (step_presented hw).trans (acceptCommand_refuses hbusy)

/-- The running state INIT loads: `H0_v` (R138). -/
def initialState (v : Variant) : Vector Slot 8 := stateSlots v (octOf (initialWord v))

/-- The `i`-th of the named values of a table is its entry `i`, in the order of R25. -/
theorem octOf_getD {α : Type} (f : Nat → α) (d : α) {i : Nat} (h : i < 8) : (octOf f).toList.getD i d = f i := by
  interval_cases i <;> rfl

theorem wordAt_initialState (v : Variant) {i : Nat} (h : i < 8) : wordAt v (initialState v) i = initialWord v i := by
  rw [← stateWords_getD v _ h, initialState, stateWords_stateSlots, octOf_getD _ _ h]

/-- INIT runs in every state, and its writes leave every register that is not on the Writes list of R138. -/
theorem initCompute_runs (v : Variant) (s : State) :
    initCompute v s = .next
      { s with variant := v, messageLength := cmdLength s.cmd, L := clampLength Config.maxLen (cmdLength s.cmd),
               H := initialState v, processed := 0, terminal := false, synthPending := false, phase := .segFill } := rfl

/-- Settles O11: the length written is the command's low 64 bits, `L` its clamp, and `H` the table of the variant. -/
theorem initStartsComputation : Obligations.InitStartsComputation := by
  intro v s _
  refine ⟨_, (Safety.exec_initOp v s).trans (initCompute_runs v s), rfl, ?_, ?_, ?_⟩
  · exact toNat_cmdLength s.cmd
  · exact toNat_clampLength Config.maxLen (cmdLength s.cmd)
  · intro i hi
    exact wordAt_initialState v hi

end Sys2Proof.Machine

/-! ## The digest depends on the operands and the message alone (44_sequencer_and_digest_command.md R144)

Two cores are run side by side. Of the registers that INIT does not write, each phase reads only what an earlier phase of
the same block has written: `liveAgree` says which, phase by phase. A step of the first core that answers a next state is
then matched by a step of the second, and the two next states are related again. -/

namespace Sys2Proof.Machine

open Safety (effectiveLength)

/-! ### The relation between the two cores -/

/-- The bytes of the variant's block agree; the storage beyond is dead (log entry 2). -/
def blockAgrees (v : Variant) (b1 b2 : Vector Byte 128) : Prop := ∀ i < v.bs, byteAt b2 i = byteAt b1 i

/-- The first `n` words of the schedule agree. -/
def scheduleAgrees (v : Variant) (n : Nat) (W1 W2 : Vector Slot 80) : Prop := ∀ i < n, wordAt v W2 i = wordAt v W1 i

/-- Agreement of the registers that are live in a phase besides those INIT writes; every other one may differ. INIT itself
starts a computation and is in none. -/
def liveAgree (v : Variant) (s1 s2 : State) : Phase → Prop
  | .init => False
  | .segRoom => blockAgrees v s1.blk s2.blk
  | .expLoad => blockAgrees v s1.blk s2.blk
  | .expMix => s2.t = s1.t ∧ scheduleAgrees v s1.t.toNat s1.W s2.W
  | .rndSeed => scheduleAgrees v v.nr s1.W s2.W
  | .rndStep => s2.t = s1.t ∧ s2.regs = s1.regs ∧ scheduleAgrees v v.nr s1.W s2.W
  | .accAdd => s2.regs = s1.regs
  | .done => ∀ i < v.ds, s2.digestOut.read i = s1.digestOut.read i
  | _ => True

/-- Two cores in computations on the same operands: the registers INIT writes agree, but for `message_length`, which no
operation reads, and so does the message below `L`. -/
structure SameOperands (v : Variant) (s1 s2 : State) : Prop where
  presented1 : s1.presented = none
  presented2 : s2.presented = none
  variant1 : s1.variant = v
  variant2 : s2.variant = v
  L : s2.L = s1.L
  message : ∀ a < s1.L.toNat, s2.msg.read a = s1.msg.read a
  H : s2.H = s1.H
  processed : s2.processed = s1.processed
  terminal : s2.terminal = s1.terminal
  synthPending : s2.synthPending = s1.synthPending

/-- Two cores in the same phase of computations on the same operands. -/
structure SameProgress (v : Variant) (p : Phase) (s1 s2 : State) : Prop extends SameOperands v s1 s2 where
  phase1 : s1.phase = p
  phase2 : s2.phase = p
  live : liveAgree v s1 s2 p

/-- Two cores that have accepted commands of the same operands and are about to perform INIT. -/
structure SameCommand (s1 s2 : State) : Prop where
  presented1 : s1.presented = none
  presented2 : s2.presented = none
  phase1 : s1.phase = .init
  phase2 : s2.phase = .init
  variant : cmdVariant s2.cmd = cmdVariant s1.cmd
  length : effectiveLength s2.cmd = effectiveLength s1.cmd
  message : ∀ a < effectiveLength s1.cmd, s2.msg.read a = s1.msg.read a

/-- Two cores that go through the same computation side by side. -/
def sameRun (s1 s2 : State) : Prop := SameCommand s1 s2 ∨ ∃ v p, SameProgress v p s1 s2

/-- If the first outcome is a next state, so is the second, and the two cores go on side by side. -/
def follows (r1 r2 : Result) : Prop := ∀ t1, r1 = .next t1 → ∃ t2, r2 = .next t2 ∧ sameRun t1 t2

theorem follows_next {v : Variant} (p : Phase) {t1 t2 : State} (h : SameProgress v p t1 t2) :
    follows (.next t1) (.next t2) := by
  rintro _ ⟨⟩
  exact ⟨t2, rfl, .inr ⟨v, p, h⟩⟩

theorem follows_fault (f : Fault) (r : Result) : follows (.fault f) r := by
  rintro _ ⟨⟩

theorem follows_refused (f : Refusal) (r : Result) : follows (.refused f) r := by
  rintro _ ⟨⟩

theorem sameRun_phase {s1 s2 : State} (h : sameRun s1 s2) : s1.phase = s2.phase := by
  rcases h with h | ⟨v, p, h⟩
  · exact h.phase1.trans h.phase2.symm
  · exact h.phase1.trans h.phase2.symm

/-! ### Writes that keep the agreement of the operands

Any two values in the registers `SameOperands` says nothing of, the same value in the others. -/

namespace SameOperands

variable {v : Variant} {s1 s2 : State}

theorem setPhase (h : SameOperands v s1 s2) (p : Phase) : SameOperands v (s1.setPhase p) (s2.setPhase p) := { h with }

theorem setBlk (h : SameOperands v s1 s2) (x y : Vector Byte 128) : SameOperands v (s1.setBlk x) (s2.setBlk y) := { h with }

theorem setW (h : SameOperands v s1 s2) (x y : Vector Slot 80) : SameOperands v (s1.setW x) (s2.setW y) := { h with }

theorem setRegs (h : SameOperands v s1 s2) (x y : Oct Slot) : SameOperands v (s1.setRegs x) (s2.setRegs y) := { h with }

theorem setT (h : SameOperands v s1 s2) (x y : BitVec 7) : SameOperands v (s1.setT x) (s2.setT y) := { h with }

theorem setRoom (h : SameOperands v s1 s2) (x y : Bool) : SameOperands v (s1.setRoom x) (s2.setRoom y) := { h with }

theorem setDigestOut (h : SameOperands v s1 s2) (x y : Memory) :
    SameOperands v (s1.setDigestOut x) (s2.setDigestOut y) := { h with }

theorem setH (h : SameOperands v s1 s2) (x : Vector Slot 8) : SameOperands v (s1.setH x) (s2.setH x) :=
  { h with H := rfl }

theorem setProcessed (h : SameOperands v s1 s2) (x : BitVec 64) : SameOperands v (s1.setProcessed x) (s2.setProcessed x) :=
  { h with processed := rfl }

theorem setTerminal (h : SameOperands v s1 s2) (x : Bool) : SameOperands v (s1.setTerminal x) (s2.setTerminal x) :=
  { h with terminal := rfl }

theorem setSynthPending (h : SameOperands v s1 s2) (x : Bool) :
    SameOperands v (s1.setSynthPending x) (s2.setSynthPending x) := { h with synthPending := rfl }

end SameOperands

/-! ### What the operations read of the live registers -/

theorem blockAgrees_setBlock {v : Variant} {b1 b2 : Vector Byte 128} {f g : Nat → Byte} (h : ∀ i < v.bs, g i = f i) :
    blockAgrees v (setBlock v b1 f) (setBlock v b2 g) := by
  intro i hi
  rw [byteAt_setBlock, byteAt_setBlock, if_pos hi, if_pos hi, h i hi]

theorem blockAgrees_writeTrailer {v : Variant} {b1 b2 : Vector Byte 128} (L : BitVec 64) (h : blockAgrees v b1 b2) :
    blockAgrees v (writeTrailer v L b1) (writeTrailer v L b2) :=
  blockAgrees_setBlock fun i hi => by rw [h i hi]

theorem nativeWord_congr {v : Variant} {b1 b2 : Vector Byte 128} (h : blockAgrees v b1 b2) {i : Nat} (hi : i < 16) :
    nativeWord v b2 i = nativeWord v b1 i := by
  apply BitVec.eq_of_toNat_eq
  rw [toNat_nativeWord, toNat_nativeWord]
  exact beNat_congr fun j hj => h _ (nativeByte_lt hi hj)

theorem wordAt_set_other (v : Variant) (W : Vector Slot 80) {t i : Nat} (x : Slot) (h : i ≠ t) :
    wordAt v (W.setIfInBounds t x) i = wordAt v W i := by
  rw [wordAt, getElem?_set_other W x h, wordAt]

/-- A new schedule word is read from the sixteen before it. -/
theorem mixWord_congr {v : Variant} {t : Nat} {W1 W2 : Vector Slot 80} (h : scheduleAgrees v t W1 W2) (h16 : 16 ≤ t) :
    mixWord v W2 t = mixWord v W1 t := by
  rw [mixWord, h (t - 2) (by omega), h (t - 7) (by omega), h (t - 15) (by omega), h (t - 16) (by omega), mixWord]

/-- The same word written after schedules that agree makes them agree by one word more. -/
theorem scheduleAgrees_set {v : Variant} {t : Nat} {W1 W2 : Vector Slot 80} (h : scheduleAgrees v t W1 W2) (ht : t < 80)
    (x : Word v) :
    scheduleAgrees v (t + 1) (W1.setIfInBounds t (toSlot v x)) (W2.setIfInBounds t (toSlot v x)) := by
  intro i hi
  by_cases he : i = t
  · rw [he, wordAt_set_same v W1 t x ht, wordAt_set_same v W2 t x ht]
  · rw [wordAt_set_other v W1 _ he, wordAt_set_other v W2 _ he, h i (by omega)]

/-- The live registers of `EXP_MIX` after a write of the schedule and the counter: `W1` and `W2` stand for any values, so
that comparing the counters never compares the schedules. -/
theorem liveAgree_expMix {v : Variant} {s1 s2 : State} (t : BitVec 7) {W1 W2 : Vector Slot 80}
    (h : scheduleAgrees v t.toNat W1 W2) :
    liveAgree v (((s1.setW W1).setT t).setPhase .expMix) (((s2.setW W2).setT t).setPhase .expMix) .expMix :=
  ⟨rfl, h⟩

/-! ### One lemma per operation -/

section Operations

variable {v : Variant} {s1 s2 : State}

/-- INIT makes the two cores agree in every register it writes but `message_length`. -/
theorem init_follows (h : SameCommand s1 s2) :
    follows (initCompute (cmdVariant s1.cmd) s1) (initCompute (cmdVariant s2.cmd) s2) := by
  have hL (s : State) : (clampLength Config.maxLen (cmdLength s.cmd)).toNat = effectiveLength s.cmd :=
    toNat_clampLength Config.maxLen (cmdLength s.cmd)
  rw [h.variant, initCompute_runs, initCompute_runs]
  refine follows_next .segFill ⟨⟨h.presented1, h.presented2, rfl, rfl, ?_, ?_, rfl, rfl, rfl, rfl⟩, rfl, rfl, trivial⟩
  · exact BitVec.eq_of_toNat_eq ((hL s2).trans (h.length.trans (hL s1).symm))
  · exact fun a ha => h.message a (hL s1 ▸ ha)

theorem segFill_follows (h : SameProgress v .segFill s1 s2) : follows (segFill v s1) (segFill v s2) := by
  have hbyte : ∀ i, fillByte s2 i = fillByte s1 i := fillByte_congr h.processed h.L h.message
  rcases segFill_cases v s1 with ⟨hok, hs1⟩ | ⟨_, hs1⟩
  · rw [hs1, segFill_runs fun i hi => (hbyte i).symm ▸ hok i hi]
    have hblk := blockAgrees_setBlock (b1 := s1.blk) (b2 := s2.blk)
      (fun i (_ : i < v.bs) => congrArg (·.toOption.getD 0) (hbyte i))
    exact follows_next .segRoom ⟨(h.setBlk _ _).setPhase .segRoom, rfl, rfl, hblk⟩
  · exact hs1 ▸ follows_refused _ _

theorem segRoom_follows (h : SameProgress v .segRoom s1 s2) : follows (segRoom v s1) (segRoom v s2) := by
  have hended : messageEnded v s2 = messageEnded v s1 := by
    rw [messageEnded, messageEnded, blockEnd, blockEnd, h.L, h.processed]
  have hroom : roomDecision v s2 = roomDecision v s1 := by
    rw [roomDecision, roomDecision, hended, blockEnd, blockEnd, h.L, h.processed]
  have hnext (b : Bool) := (h.setRoom b b).setPhase .expLoad
  unfold segRoom
  rw [hroom, hended, h.L]
  cases roomDecision v s1 with
  | true =>
    exact follows_next .expLoad ⟨((hnext true).setBlk _ _).setTerminal true, rfl, rfl,
      blockAgrees_writeTrailer s1.L h.live⟩
  | false =>
    cases messageEnded v s1 with
    | true => exact follows_next .expLoad ⟨(hnext false).setSynthPending true, rfl, rfl, h.live⟩
    | false => exact follows_next .expLoad ⟨hnext false, rfl, rfl, h.live⟩

theorem segSynth_follows (h : SameProgress v .segSynth s1 s2) : follows (segSynth v s1) (segSynth v s2) := by
  rw [segSynth_eq, segSynth_eq, h.L]
  have hblk : blockAgrees v (synthBlock v s1.L s1.blk) (synthBlock v s1.L s2.blk) := blockAgrees_setBlock fun _ _ => rfl
  exact follows_next .expLoad ⟨(((h.setBlk _ _).setTerminal true).setSynthPending false).setPhase .expLoad, rfl, rfl,
    blockAgrees_writeTrailer s1.L hblk⟩

theorem expLoad_follows (h : SameProgress v .expLoad s1 s2) : follows (expLoad v s1) (expLoad v s2) := by
  rw [expLoad_runs, expLoad_runs]
  have hW : scheduleAgrees v 16 (loadedSchedule v s1) (loadedSchedule v s2) := fun i hi => by
    rw [wordAt_loadedSchedule v s1 hi, wordAt_loadedSchedule v s2 hi, nativeWord_congr h.live hi]
  exact follows_next .expMix ⟨((h.setW _ _).setT 16 16).setPhase .expMix, rfl, rfl, liveAgree_expMix 16 hW⟩

theorem expMix_follows (h : SameProgress v .expMix s1 s2) : follows (expMix v s1) (expMix v s2) := by
  obtain ⟨ht, hW⟩ := h.live
  by_cases hr : 16 ≤ s1.t.toNat ∧ s1.t.toNat < v.nr
  · have hset := scheduleAgrees_set hW (Nat.lt_of_lt_of_le hr.2 v.nr_le) (mixWord v s1.W s1.t.toNat)
    rw [expMix_runs hr, expMix_runs (ht.symm ▸ hr), ht, mixWord_congr hW hr.1]
    by_cases hlast : s1.t.toNat + 1 = v.nr
    · rw [if_pos hlast]
      exact follows_next .rndSeed ⟨((h.setW _ _).setT _ _).setPhase .rndSeed, rfl, rfl,
        (hlast ▸ hset : scheduleAgrees v v.nr _ _)⟩
    · rw [if_neg hlast]
      exact follows_next .expMix ⟨((h.setW _ _).setT _ _).setPhase .expMix, rfl, rfl,
        liveAgree_expMix _ (counter_succ hr.2 ▸ hset)⟩
  · exact expMix_stops hr ▸ follows_fault _ _

theorem rndSeed_follows (h : SameProgress v .rndSeed s1 s2) : follows (rndSeed v s1) (rndSeed v s2) := by
  rw [rndSeed_runs, rndSeed_runs, h.H]
  exact follows_next .rndStep ⟨((h.setRegs _ _).setT 0 0).setPhase .rndStep, rfl, rfl, rfl, rfl, h.live⟩

theorem rndStep_follows (h : SameProgress v .rndStep s1 s2) : follows (rndStep v s1) (rndStep v s2) := by
  obtain ⟨ht, hregs, hW⟩ := h.live
  by_cases hr : s1.t.toNat < v.nr
  · rw [rndStep_runs hr, rndStep_runs (ht.symm ▸ hr), ht, hregs, hW _ hr]
    by_cases hlast : s1.t.toNat + 1 = v.nr
    · rw [if_pos hlast]
      exact follows_next .accAdd ⟨((h.setRegs _ _).setT _ _).setPhase .accAdd, rfl, rfl, rfl⟩
    · rw [if_neg hlast]
      exact follows_next .rndStep ⟨((h.setRegs _ _).setT _ _).setPhase .rndStep, rfl, rfl, rfl, rfl, hW⟩
  · exact rndStep_stops hr ▸ follows_fault _ _

theorem accAdd_follows (h : SameProgress v .accAdd s1 s2) : follows (accAdd v s1) (accAdd v s2) := by
  have hregs : s2.regs = s1.regs := h.live
  have hH : accumulated v s2 = accumulated v s1 := by rw [accumulated, accumulated, h.H, hregs]
  cases ht : s1.terminal with
  | true =>
    rw [accAdd_terminal ht, accAdd_terminal (h.terminal.trans ht), hH]
    exact follows_next .serOut ⟨(h.setH _).setPhase .serOut, rfl, rfl, trivial⟩
  | false =>
    by_cases hc : s1.processed.toNat + v.bs < 2 ^ 64
    · rw [accAdd_more ht hc, accAdd_more (h.terminal.trans ht) (h.processed.symm ▸ hc), hH, h.processed, h.synthPending]
      cases s1.synthPending with
      | true => exact follows_next .segSynth ⟨((h.setH _).setProcessed _).setPhase .segSynth, rfl, rfl, trivial⟩
      | false => exact follows_next .segFill ⟨((h.setH _).setProcessed _).setPhase .segFill, rfl, rfl, trivial⟩
    · exact accAdd_stops ht hc ▸ follows_fault _ _

theorem serOut_follows (h : SameProgress v .serOut s1 s2) : follows (serOut v s1) (serOut v s2) := by
  unfold serOut
  refine follows_next .done ⟨(h.setDigestOut _ _).setPhase .done, rfl, rfl, fun i hi => ?_⟩
  exact (read_serOut v s2 i).trans ((if_pos hi).trans (h.H ▸ ((read_serOut v s1 i).trans (if_pos hi)).symm))

/-- The operation of every phase, in which `IDLE` and `DONE` leave the two cores as they are. -/
theorem phaseStep_follows {p : Phase} (h : SameProgress v p s1 s2) : follows (phaseStep v s1 p) (phaseStep v s2 p) := by
  cases p with
  | idle => exact follows_next .idle h
  | init => exact h.live.elim
  | segFill => exact segFill_follows h
  | segRoom => exact segRoom_follows h
  | segSynth => exact segSynth_follows h
  | expLoad => exact expLoad_follows h
  | expMix => exact expMix_follows h
  | rndSeed => exact rndSeed_follows h
  | rndStep => exact rndStep_follows h
  | accAdd => exact accAdd_follows h
  | serOut => exact serOut_follows h
  | done => exact follows_next .done h

end Operations

/-! ### Steps and runs -/

/-- In `INIT` with no command presented, a step is INIT for the variant of the held command (R138). -/
theorem step_init {s : State} (hn : s.presented = none) (h : s.phase = .init) :
    step s = initCompute (cmdVariant s.cmd) s := by
  have hv : activeVariant s = cmdVariant s.cmd := by simp only [activeVariant, h]
  rw [step_phase hn, hv, h]
  rfl

theorem step_follows {s1 s2 : State} (h : sameRun s1 s2) : follows (step s1) (step s2) := by
  rcases h with h | ⟨v, p, h⟩
  · rw [step_init h.presented1 h.phase1, step_init h.presented2 h.phase2]
    exact init_follows h
  · have hp : p ≠ .init := by
      rintro rfl
      exact h.live
    rw [step_at h.presented1 h.phase1 hp, step_at h.presented2 h.phase2 hp, h.variant1, h.variant2]
    exact phaseStep_follows h

/-- Cores that go side by side stay so for every number of steps the first one runs. -/
theorem run_follows (n : Nat) {s1 s2 : State} (h : sameRun s1 s2) :
    follows (Host.Core.run core n s1) (Host.Core.run core n s2) := by
  induction n generalizing s1 s2 with
  | zero =>
    rintro _ ⟨⟩
    exact ⟨s2, rfl, h⟩
  | succ n ih =>
    intro t1 ht1
    obtain ⟨u1, hu1, hrun⟩ := run_succ_next (M := core) ht1
    obtain ⟨u2, hu2, hu⟩ := step_follows h u1 hu1
    obtain ⟨t2, ht2, ht⟩ := ih hu t1 hrun
    exact ⟨t2, (run_of_step (M := core) n hu2).trans ht2, ht⟩

/-- Two cores that can accept a command and are presented commands of the same operands. -/
theorem accept_follows {s1 s2 : State} {w1 w2 : BitVec 65} (hb1 : busyFlag s1 = false) (hb2 : busyFlag s2 = false)
    (hw1 : s1.presented = some w1) (hw2 : s2.presented = some w2) (hv : cmdVariant w1 = cmdVariant w2)
    (hL : effectiveLength w1 = effectiveLength w2) (hm : ∀ i < effectiveLength w1, s1.msg.read i = s2.msg.read i) :
    follows (step s1) (step s2) := by
  rw [step_presented hw1, step_presented hw2, acceptCommand_runs hb1, acceptCommand_runs hb2, cmdWord_fields,
    cmdWord_fields]
  rintro _ ⟨⟩
  exact ⟨_, rfl, .inl ⟨rfl, rfl, rfl, rfl, hv.symm, hL.symm, fun a ha => (hm a ha).symm⟩⟩

theorem hostReadDigest_of_ne {s : State} (h : s.phase ≠ .done) (i : Nat) : hostReadDigest s i = none := by
  simp [hostReadDigest, doneFlag, h]

theorem hostReadDigest_done {s : State} (h : s.phase = .done) (i : Nat) :
    hostReadDigest s i = if i < s.variant.ds then s.digestOut.read i else none := by
  simp [hostReadDigest, doneFlag, h]

/-- The host sees the same digest bytes of cores that go side by side: none before `DONE`, those of SER.OUT in it. -/
theorem sameRun_hostReadDigest {s1 s2 : State} (h : sameRun s1 s2) (i : Nat) :
    hostReadDigest s1 i = hostReadDigest s2 i := by
  by_cases hd : s1.phase = .done
  · have hd2 : s2.phase = .done := (sameRun_phase h).symm.trans hd
    rw [hostReadDigest_done hd, hostReadDigest_done hd2]
    rcases h with h | ⟨v, p, h⟩
    · cases h.phase1.symm.trans hd
    · obtain rfl : p = .done := h.phase1.symm.trans hd
      rw [h.variant1, h.variant2]
      by_cases hi : i < v.ds
      · rw [if_pos hi, if_pos hi, h.live i hi]
      · rw [if_neg hi, if_neg hi]
  · rw [hostReadDigest_of_ne hd, hostReadDigest_of_ne (sameRun_phase h ▸ hd)]

/-- Settles O46: after the acceptance the two cores go side by side, by one lemma per operation. -/
theorem digestIndependentOfEarlierState : Obligations.DigestIndependentOfEarlierState := by
  intro s1 s2 w1 w2 hp1 hp2 hw1 hw2 hv hL hm n t1 hn hrun
  obtain ⟨k, rfl⟩ := Nat.exists_eq_add_one.2 hn
  obtain ⟨u1, hu1, hrun1⟩ := run_succ_next (M := core) hrun
  obtain ⟨u2, hu2, hu⟩ :=
    accept_follows ((busyFlag_false_iff s1).2 hp1) ((busyFlag_false_iff s2).2 hp2) hw1 hw2 hv hL hm u1 hu1
  obtain ⟨t2, hrun2, ht⟩ := run_follows k hu t1 hrun1
  exact ⟨t2, (run_of_step (M := core) k hu2).trans hrun2, sameRun_phase ht, sameRun_hostReadDigest ht⟩

end Sys2Proof.Machine

/-! ## The digest is read only while `done = 1` (70_reset_and_hazards.md R176) -/

namespace Sys2Proof.Machine

/-- No digest byte has a value beyond the variant's digest, in whatever phase the host reads (R65). -/
theorem hostReadDigest_of_ds_le {s : State} {i : Nat} (hi : s.variant.ds ≤ i) : hostReadDigest s i = none := by
  simp [hostReadDigest, Nat.not_lt.2 hi]

/-- In `DONE` a step with no command presented leaves the core as it is (R142). -/
theorem step_done {s : State} (h : s.phase = .done) (hn : s.presented = none) : step s = .next s :=
  step_at hn h (by decide)

/-- Settles O39: the host's read is guarded by `done` and by `DS(v)`, which the statement writes out as a number, and a
step in `DONE` without a command changes nothing. -/
theorem digestReadOnlyWhenDone : Obligations.DigestReadOnlyWhenDone := by
  intro s i
  refine ⟨fun h => hostReadDigest_of_ne h i, fun hi => hostReadDigest_of_ds_le hi, fun h hi => ?_, fun h hn => ?_⟩
  · exact (hostReadDigest_done h i).trans (if_pos hi)
  · exact ⟨s, step_done h hn, by simp [doneFlag, h], rfl⟩

end Sys2Proof.Machine

/-! ## Decoding and encoding (30_encoding.md R70 to R72, R80, R81) -/

namespace Sys2Proof

/-! ### The two layouts -/

/-- The byte of a code decodes as the code does. -/
theorem decode_uopByte (c : BitVec 5) : decode (natToBytes 1 c.toNat) = decodeUop c := by
  have hval : bytesToNat (natToBytes 1 c.toNat) = c.toNat := bytesToNat_natToBytes 1 _ (by have := c.isLt; omega)
  have hdec : decode (natToBytes 1 c.toNat) =
      if bytesToNat (natToBytes 1 c.toNat) < 2 ^ 5 then decodeUop (BitVec.ofNat 5 (bytesToNat (natToBytes 1 c.toNat)))
      else .error .codeTooWide := rfl
  rw [hdec, hval, if_pos c.isLt, BitVec.ofNat_toNat, BitVec.setWidth_eq]

/-- The nine bytes of a command word decode to its command: every word is legal (R81). -/
theorem decode_cmdBytes (w : BitVec 65) : decode (natToBytes 9 w.toNat) = .ok (decodeCmd w) := by
  have hval : bytesToNat (natToBytes 9 w.toNat) = w.toNat := bytesToNat_natToBytes 9 _ (by have := w.isLt; omega)
  have hdec : decode (natToBytes 9 w.toNat) =
      if bytesToNat (natToBytes 9 w.toNat) < 2 ^ 65 then
        .ok (decodeCmd (BitVec.ofNat 65 (bytesToNat (natToBytes 9 w.toNat))))
      else .error .commandTooWide := rfl
  rw [hdec, hval, if_pos w.isLt, BitVec.ofNat_toNat, BitVec.setWidth_eq]

/-- Bytes that decode to an operation are the byte of a code or the nine bytes of a command word. -/
theorem decode_ok {bs : List Byte} {i : Instr} (h : decode bs = .ok i) :
    (∃ c, bs = natToBytes 1 (BitVec.toNat c) ∧ decodeUop c = .ok i) ∨
    (∃ w, bs = natToBytes 9 (BitVec.toNat w) ∧ decodeCmd w = i) := by
  unfold decode at h
  split at h
  · next hlen =>
    split at h
    · next hlt =>
      refine .inl ⟨_, ?_, h⟩
      rw [BitVec.toNat_ofNat, Nat.mod_eq_of_lt hlt, ← hlen, natToBytes_bytesToNat]
    · cases h
  · next hlen =>
    split at h
    · next hlt =>
      refine .inr ⟨_, ?_, Except.ok.inj h⟩
      rw [BitVec.toNat_ofNat, Nat.mod_eq_of_lt hlt, ← hlen, natToBytes_bytesToNat]
    · cases h
  · cases h

/-! ### The code table and the command word -/

/-- The look-up answers a row of the table. -/
theorem mem_of_lookup {α β : Type} [BEq α] [LawfulBEq α] {l : List (α × β)} {a : α} {b : β}
    (h : l.lookup a = some b) : (a, b) ∈ l := by
  obtain ⟨l1, l2, hl, _⟩ := List.lookup_eq_some_iff.1 h
  simp [hl]

theorem uopTable_of_decodeUop {c : BitVec 5} {i : Instr} (h : decodeUop c = .ok i) : (c, i) ∈ uopTable := by
  unfold decodeUop at h
  split at h
  · next hl => exact mem_of_lookup (Except.ok.inj h ▸ hl)
  · cases h

/-- The rows of the table hold the codes the encoder gives, and the look-up finds them. -/
theorem uopTable_rows : ∀ r ∈ uopTable,
    r.2.format = .uop ∧ encodeNat r.2 = r.1.toNat ∧ uopTable.lookup r.1 = some r.2 := by decide

/-- Every micro-operation has a row in the table. -/
theorem exists_code {i : Instr} (h : i.format = .uop) : ∃ c, (c, i) ∈ uopTable := by
  refine ⟨BitVec.ofNat 5 (encodeNat i), ?_⟩
  cases i with
  | digestS len => cases h
  | digestL len => cases h
  | _ => decide

theorem encode_of_uopTable {c : BitVec 5} {i : Instr} (h : (c, i) ∈ uopTable) :
    encode i = natToBytes 1 c.toNat ∧ decodeUop c = .ok i := by
  obtain ⟨hformat, hcode, hlookup⟩ := uopTable_rows _ h
  refine ⟨?_, ?_⟩
  · rw [encode, hformat, hcode]
    rfl
  · simp only at hlookup
    rw [decodeUop, hlookup]

theorem encode_decodeCmd (w : BitVec 65) : encode (decodeCmd w) = natToBytes 9 w.toNat := by
  have hw : encode (decodeCmd w) = natToBytes 9 (cmdWord (cmdVariant w) (cmdLength w)).toNat := by
    unfold decodeCmd
    cases cmdVariant w <;> rfl
  rw [hw, cmdWord_fields]

/-- Every operation in the command format is a word's command. -/
theorem exists_word {i : Instr} (h : i.format = .cmd) : ∃ w, decodeCmd w = i := by
  cases i with
  | digestS len => exact ⟨cmdWord .short len, by simp [decodeCmd]⟩
  | digestL len => exact ⟨cmdWord .long len, by simp [decodeCmd]⟩
  | _ => cases h

/-! ### The obligations -/

/-- Settles O1: the encoder's bytes are the byte of the operation's row in the code table or the nine bytes of its command
word. -/
theorem decodeInvertsEncode : Obligations.DecodeInvertsEncode := by
  intro i _
  cases hf : i.format with
  | cmd =>
    obtain ⟨w, rfl⟩ := exists_word hf
    rw [encode_decodeCmd, decode_cmdBytes]
  | uop =>
    obtain ⟨c, hc⟩ := exists_code hf
    obtain ⟨henc, hdec⟩ := encode_of_uopTable hc
    rw [henc, decode_uopByte, hdec]

/-- Settles O2: bytes that decode are the layout of a code or of a command word, and the encoder gives that layout. -/
theorem encodeInvertsDecode : Obligations.EncodeInvertsDecode := by
  intro bs i h
  rcases decode_ok h with ⟨c, rfl, hc⟩ | ⟨w, rfl, rfl⟩
  · exact (encode_of_uopTable (uopTable_of_decodeUop hc)).1
  · exact encode_decodeCmd w

/-- Settles O3: the two command words are those of their fields, and the twenty codes are the rows of the table. -/
theorem writtenWordsDecode : Obligations.WrittenWordsDecode := by
  refine ⟨decode_cmdBytes (cmdWord .short 3), decode_cmdBytes (cmdWord .long 3), ?_⟩
  exact ⟨rfl, rfl, rfl, rfl, rfl, rfl, rfl, rfl, rfl, rfl, rfl, rfl, rfl, rfl, rfl, rfl, rfl, rfl, rfl, rfl⟩

/-- A code is in the table exactly when its phase code is 1 to 10. -/
theorem lookup_isSome_iff : ∀ c : BitVec 5,
    (uopTable.lookup c).isSome = true ↔ 1 ≤ c.toNat % 16 ∧ c.toNat % 16 ≤ 10 := by decide

theorem decodeUop_ok_iff (c : BitVec 5) : (∃ i, decodeUop c = .ok i) ↔ (uopTable.lookup c).isSome = true := by
  unfold decodeUop
  cases uopTable.lookup c <;> simp

/-- The command of a word, its variant read from bit 64 as a quotient. -/
theorem decodeCmd_eq (w : BitVec 65) :
    decodeCmd w = if w.toNat / 2 ^ 64 = 0 then .digestS (BitVec.ofNat 64 (w.toNat % 2 ^ 64))
      else .digestL (BitVec.ofNat 64 (w.toNat % 2 ^ 64)) := by
  have hlen : BitVec.ofNat 64 (w.toNat % 2 ^ 64) = cmdLength w := by
    rw [← toNat_cmdLength, BitVec.ofNat_toNat, BitVec.setWidth_eq]
  rw [hlen, decodeCmd, cmdVariant_eq]
  by_cases h : w.toNat / 2 ^ 64 = 0
  · rw [if_pos h, if_pos h]
  · rw [if_neg h, if_neg h]

end Sys2Proof

namespace Sys2Proof.Machine

/-- The sequencer forms the code of a phase, so none with an unused phase code. -/
theorem phaseCode_lt (v : Variant) (p : Phase) : (variantBit v ++ phaseCode p).toNat % 16 < 12 := by
  cases v <;> cases p <;> decide

/-- Settles O4: a command word's quotient by `2^64` is its variant bit, and a code is in the table by its phase code. -/
theorem everyCommandWordIsLegal : Obligations.EveryCommandWordIsLegal := by
  refine ⟨fun w => ⟨decodeCmd w, decode_cmdBytes w, fun h => ?_, fun h => ?_⟩, fun c => ?_, fun s => ?_⟩
  · rw [decodeCmd_eq, if_pos h]
  · rw [decodeCmd_eq, if_neg (by rw [h]; decide)]
  · exact (decodeUop_ok_iff c).trans (lookup_isSome_iff c)
  · exact phaseCode_lt (activeVariant s) s.phase

/-! ## The step (44_sequencer_and_digest_command.md R139) -/

theorem fetch_presented {s : State} {w : BitVec 65} (h : s.presented = some w) : fetch s = some (decodeCmd w) := by
  simp only [fetch, h]

theorem fetch_uop {s : State} (h : s.presented = none) : fetch s = (decodeUop (uopCode s)).toOption := by
  simp only [fetch, h]

theorem step_of_fetch {s : State} {i : Instr} (h : fetch s = some i) : step s = exec i s := by
  simp only [step, h]

/-- Settles O5: the layout of the presented word, or of the phase's code, decodes to what the step fetches. -/
theorem stepRunsFetchedOperation : Obligations.StepRunsFetchedOperation := by
  refine ⟨fun s w i hw hdec => ?_, fun s i hn hdec => ?_, fun s hn hp => ?_⟩
  · rw [decode_cmdBytes] at hdec
    exact step_of_fetch ((fetch_presented hw).trans (congrArg some (Except.ok.inj hdec)))
  · rw [decode_uopByte] at hdec
    exact step_of_fetch ((fetch_uop hn).trans (by rw [hdec]; rfl))
  · rcases hp with hp | hp
    · exact step_at hn hp (by decide)
    · exact step_at hn hp (by decide)

/-- The operation of a phase is the one the table of R72 names. -/
theorem exec_phaseOp {v : Variant} {p : Phase} {i : Instr} (h : Safety.phaseOp v p = some i) (s : State) :
    phaseStep v s p = exec i s := by
  cases p with
  | idle => cases h
  | done => cases h
  | _ =>
    cases h
    cases v <;> rfl

/-- Settles O6: a step is the operation of the phase for the active variant. -/
theorem phaseSelectsOperation : Obligations.PhaseSelectsOperation := by
  intro s hn
  refine ⟨fun i hp hi => ?_, fun i hp hi => ?_⟩
  · rw [step_phase hn, activeVariant_of_ne hp, exec_phaseOp hi]
  · rw [step_init hn hp, ← exec_phaseOp hi, hp]
    rfl

end Sys2Proof.Machine

/-! ## The parameters and the status flags (00_scope.md R8, R9; 10_state.md R38) -/

namespace Sys2Proof.Machine

/-- Settles O13: the value that stands for `MAX_LEN` passes the check of its range. -/
theorem maxLenInRange : Obligations.MaxLenInRange := by
  have h := Config.maxLenOk_maxLen
  simp only [Config.maxLenOk, Bool.and_eq_true, decide_eq_true_eq] at h
  exact h

/-- Settles O47: the entries are the definitions', and `1 + ... + 1` of R140 is `2 +` the steps of the blocks. -/
theorem parameterTable : Obligations.ParameterTable := by
  have hshort : rawBlockSteps .short = 117 := rfl
  have hlong : rawBlockSteps .long = 149 := rfl
  refine ⟨by decide, by decide, by decide, by decide, by decide, by decide, by decide, by decide, by decide, by decide,
    by decide, by decide, fun L => ⟨?_, ?_⟩⟩
  · simp only [computationSteps, hshort]
    omega
  · simp only [computationSteps, hlong]
    omega

theorem doneFlag_iff (s : State) : doneFlag s = true ↔ s.phase = .done := beq_iff_eq

theorem busyFlag_iff (s : State) : busyFlag s = true ↔ s.phase ≠ .idle ∧ s.phase ≠ .done := by
  rw [← Bool.not_eq_false, busyFlag_false_iff, not_or]

/-- Settles O37: both flags are tests of the phase. -/
theorem doneAndBusyFollowPhase : Obligations.DoneAndBusyFollowPhase :=
  ⟨fun s => ⟨doneFlag_iff s, busyFlag_iff s⟩, rfl, rfl, rfl⟩

/-- Settles O38: the reset state is in `IDLE`, where the host reads no digest byte, and keeps the message alone. -/
theorem resetAbandonsComputation : Obligations.ResetAbandonsComputation := by
  intro s
  have hidle : (hostReset s).phase ≠ .done := by
    rw [hostReset, State.setMsg_phase]
    decide
  exact ⟨rfl, rfl, rfl, hostReadDigest_of_ne hidle, fun _ => rfl, rfl, rfl⟩

/-! ## Acceptance and the clamp (44_sequencer_and_digest_command.md R137, R138) -/

/-- Settles O9: in `IDLE` and `DONE` the command is accepted, and its word is the variant's bit above the length. -/
theorem commandAccepted : Obligations.CommandAccepted := by
  intro v len s hp
  have hbusy : busyFlag s = false := (busyFlag_false_iff s).2 hp
  exact ⟨_, (Safety.exec_digestCmd v len s).trans (acceptCommand_runs hbusy), rfl, toNat_cmdWord v len, rfl, rfl⟩

theorem clampLength_of_le {m : Nat} {len : BitVec 64} (h : len.toNat ≤ m) : clampLength m len = len :=
  BitVec.eq_of_toNat_eq ((toNat_clampLength m len).trans (Nat.min_eq_left h))

theorem toNat_clampLength_of_ge {m : Nat} {len : BitVec 64} (h : m ≤ len.toNat) : (clampLength m len).toNat = m :=
  (toNat_clampLength m len).trans (Nat.min_eq_right h)

/-- Settles O12: of the registers INIT writes only `message_length` and `L` depend on the command's length, and `L` is the
clamped one. -/
theorem clampIsSilent : Obligations.ClampIsSilent := by
  intro v s _
  refine ⟨fun hle => ⟨_, (Safety.exec_initOp v s).trans (initCompute_runs v s), clampLength_of_le hle⟩, ?_⟩
  intro w _ hs hw
  have hL : clampLength Config.maxLen (cmdLength w) = clampLength Config.maxLen (cmdLength s.cmd) :=
    BitVec.eq_of_toNat_eq ((toNat_clampLength_of_ge hw).trans (toNat_clampLength_of_ge hs).symm)
  refine ⟨_, _, (Safety.exec_initOp v s).trans (initCompute_runs v s),
    (Safety.exec_initOp v _).trans (initCompute_runs v _), toNat_clampLength_of_ge hs, ?_⟩
  rw [hL]

/-- Settles O25: each of the three operations runs exactly inside its precondition. -/
theorem preconditionStops : Obligations.PreconditionStops := by
  intro v s
  rw [Safety.exec_expMixOp, Safety.exec_rndStepOp, Safety.exec_accAddOp]
  refine ⟨?_, ?_, ?_⟩
  · by_cases h : 16 ≤ s.t.toNat ∧ s.t.toNat < v.nr
    · rw [expMix_runs h]
      exact iff_of_false nofun (by omega)
    · exact iff_of_true (expMix_stops h) (by omega)
  · by_cases h : s.t.toNat < v.nr
    · rw [rndStep_runs h]
      exact iff_of_false nofun (Nat.not_le.2 h)
    · exact iff_of_true (rndStep_stops h) (Nat.not_lt.1 h)
  · cases ht : s.terminal with
    | true =>
      rw [accAdd_terminal ht]
      exact iff_of_false nofun (fun h => Bool.noConfusion h.1)
    | false =>
      by_cases h : s.processed.toNat + v.bs < 2 ^ 64
      · rw [accAdd_more ht h]
        exact iff_of_false nofun (fun hc => Nat.not_le.2 h hc.2)
      · exact iff_of_true (accAdd_stops ht h) ⟨rfl, Nat.not_lt.1 h⟩

/-! ## What a step writes (10_state.md R21 to R46; 44_sequencer_and_digest_command.md R139) -/

/-- If SEG.ROOM answers a next state, it is one of its three. -/
theorem segRoom_next {v : Variant} {s t : State} (h : segRoom v s = .next t) :
    (s.L.toNat + v.lf + 1 ≤ s.processed.toNat + v.bs ∧
      t = (((s.setRoom true).setPhase .expLoad).setBlk (writeTrailer v s.L s.blk)).setTerminal true) ∨
    (s.L.toNat ≤ s.processed.toNat + v.bs ∧ s.processed.toNat + v.bs < s.L.toNat + v.lf + 1 ∧
      t = ((s.setRoom false).setPhase .expLoad).setSynthPending true) ∨
    (s.processed.toNat + v.bs < s.L.toNat ∧ t = (s.setRoom false).setPhase .expLoad) := by
  rcases segRoom_cases v s with ⟨h1, hs⟩ | ⟨h1, h2, hs⟩ | ⟨h1, hs⟩ <;> rw [hs] at h <;> cases h
  · exact .inl ⟨h1, rfl⟩
  · exact .inr (.inl ⟨h1, h2, rfl⟩)
  · exact .inr (.inr ⟨h1, rfl⟩)

/-- The registers the operation of a phase may write (the Writes lists of the rules); every other one is kept. -/
def writesOnly (s t : State) : Phase → Prop
  | .idle => t = s
  | .init => ∃ v n L H c a y, t = (((((((s.setVariant v).setMessageLength n).setL L).setH H).setProcessed
      c).setTerminal a).setSynthPending y).setPhase .segFill
  | .segFill => ∃ b, t = (s.setBlk b).setPhase .segRoom
  | .segRoom => ∃ r b a y, t = ((((s.setRoom r).setPhase .expLoad).setBlk b).setTerminal a).setSynthPending y
  | .segSynth => ∃ b, t = (((s.setBlk b).setTerminal true).setSynthPending false).setPhase .expLoad
  | .expLoad => ∃ W, t = ((s.setW W).setT 16).setPhase .expMix
  | .expMix => ∃ W p, t = ((s.setW W).setT (s.t + 1)).setPhase p
  | .rndSeed => ∃ r, t = ((s.setRegs r).setT 0).setPhase .rndStep
  | .rndStep => ∃ r p, t = ((s.setRegs r).setT (s.t + 1)).setPhase p
  | .accAdd => ∃ H c p, t = ((s.setH H).setProcessed c).setPhase p
  | .serOut => ∃ d, t = (s.setDigestOut d).setPhase .done
  | .done => t = s

/-- The three outcomes of SEG.ROOM write no more than its Writes list: `b` stands for the block of any of them. -/
theorem writesOnly_segRoom (s : State) (b : Vector Byte 128) :
    writesOnly s ((((s.setRoom true).setPhase .expLoad).setBlk b).setTerminal true) .segRoom ∧
    writesOnly s (((s.setRoom false).setPhase .expLoad).setSynthPending true) .segRoom ∧
    writesOnly s ((s.setRoom false).setPhase .expLoad) .segRoom :=
  ⟨⟨true, b, true, s.synthPending, rfl⟩, ⟨false, s.blk, s.terminal, true, rfl⟩,
    ⟨false, s.blk, s.terminal, s.synthPending, rfl⟩⟩

/-- After the terminal block ACC.ADD keeps the cursor. -/
theorem writesOnly_accAdd (s : State) (H : Vector Slot 8) (p : Phase) :
    writesOnly s ((s.setH H).setPhase p) .accAdd := ⟨H, s.processed, p, rfl⟩

/-- The operation of a phase writes what its rule lists. -/
theorem phaseStep_writesOnly {v : Variant} {s t : State} {p : Phase} (h : phaseStep v s p = .next t) :
    writesOnly s t p := by
  cases p with
  | idle => exact (Host.Outcome.next.inj h).symm
  | init => exact ⟨_, _, _, _, _, _, _, (Host.Outcome.next.inj h).symm⟩
  | segFill => exact ⟨_, (segFill_next h).2⟩
  | segRoom =>
    rcases segRoom_next h with ⟨_, rfl⟩ | ⟨_, _, rfl⟩ | ⟨_, rfl⟩
    · exact (writesOnly_segRoom s _).1
    · exact (writesOnly_segRoom s s.blk).2.1
    · exact (writesOnly_segRoom s s.blk).2.2
  | segSynth => exact ⟨_, (Host.Outcome.next.inj h).symm⟩
  | expLoad => exact ⟨_, (Host.Outcome.next.inj h).symm⟩
  | expMix => exact ⟨_, _, (expMix_next h).2⟩
  | rndSeed => exact ⟨_, (Host.Outcome.next.inj h).symm⟩
  | rndStep => exact ⟨_, _, (rndStep_next h).2⟩
  | accAdd =>
    rcases accAdd_next h with ⟨_, rfl⟩ | ⟨_, _, rfl⟩
    · exact writesOnly_accAdd s _ _
    · exact ⟨_, _, _, rfl⟩
  | serOut => exact ⟨_, (Host.Outcome.next.inj h).symm⟩
  | done => exact (Host.Outcome.next.inj h).symm

/-- Settles O8: a step is an acceptance, which writes `cmd`, `presented` and `phase`, or the operation of the phase, which
writes what its rule lists. -/
theorem onlyNamedWritersWrite : Obligations.OnlyNamedWritersWrite := by
  intro s t h
  rcases step_cases h with ⟨w, hw, hb, rfl⟩ | ⟨_, hs⟩
  · simp [hw, (busyFlag_false_iff s).1 hb]
  · have hwrites := phaseStep_writesOnly hs
    cases hp : s.phase <;> rw [hp] at hwrites
    case idle => obtain rfl : t = s := hwrites; simp
    case init => obtain ⟨_, _, _, _, _, _, _, rfl⟩ := hwrites; simp
    case segFill => obtain ⟨_, rfl⟩ := hwrites; simp
    case segRoom => obtain ⟨_, _, _, _, rfl⟩ := hwrites; simp
    case segSynth => obtain ⟨_, rfl⟩ := hwrites; simp
    case expLoad => obtain ⟨_, rfl⟩ := hwrites; simp
    case expMix => obtain ⟨_, _, rfl⟩ := hwrites; simp
    case rndSeed => obtain ⟨_, rfl⟩ := hwrites; simp
    case rndStep => obtain ⟨_, _, rfl⟩ := hwrites; simp
    case accAdd => obtain ⟨_, _, _, rfl⟩ := hwrites; simp
    case serOut => obtain ⟨_, rfl⟩ := hwrites; simp
    case done => obtain rfl : t = s := hwrites; simp

/-- A counter that has advanced inside its range is at the end of it exactly when the next phase follows. -/
theorem counter_advances {v : Variant} {c : BitVec 7} (h : c.toNat < v.nr) (p q : Phase) :
    (c + 1).toNat < v.nr ∧ (if c.toNat + 1 = v.nr then p else q) = q ∨
    (c + 1).toNat = v.nr ∧ (if c.toNat + 1 = v.nr then p else q) = p := by
  rw [counter_succ h]
  by_cases hlast : c.toNat + 1 = v.nr
  · exact .inr ⟨hlast, if_pos hlast⟩
  · exact .inl ⟨by omega, if_neg hlast⟩

/-- The row of ACC.ADD: `SER_OUT` after the terminal block, else the cursor advances to the next block (R139). -/
theorem accAdd_transition {v : Variant} {s t : State} (h : accAdd v s = .next t) :
    (s.terminal = true → t.phase = .serOut ∧ t.processed = s.processed) ∧
    (s.terminal = false → t.processed.toNat = s.processed.toNat + v.bs ∧
      t.phase = if s.synthPending = true then .segSynth else .segFill) := by
  rcases accAdd_next h with ⟨ht, rfl⟩ | ⟨ht, hc, rfl⟩
  · exact ⟨fun _ => ⟨rfl, rfl⟩, fun hf => Bool.noConfusion (ht.symm.trans hf)⟩
  · refine ⟨fun hf => Bool.noConfusion (ht.symm.trans hf), fun _ => ⟨?_, rfl⟩⟩
    exact (BitVec.toNat_ofNat _ _).trans (Nat.mod_eq_of_lt hc)

/-- Settles O7: the acceptance is the first row of the table, and each other row is what the operation of its phase can
do. -/
theorem phaseTransitions : Obligations.PhaseTransitions := by
  intro s t h
  refine ⟨fun w hw => ?_, fun hn => ?_⟩
  · rcases step_cases h with ⟨w', hw', hb, rfl⟩ | ⟨hn, _⟩
    · exact ⟨(busyFlag_false_iff s).1 hb, Option.some.inj (hw'.symm.trans hw), rfl⟩
    · cases hn.symm.trans hw
  · have hs {p : Phase} (hp : s.phase = p) (hne : p ≠ .init) : phaseStep s.variant s p = .next t :=
      (step_at hn hp hne).symm.trans h
    refine ⟨fun hp => ?_, fun hp => ?_, fun hp => ?_, fun hp => ?_, fun hp => ?_, fun hp => ?_, fun hp => ?_,
      fun hp => ?_, fun hp => ?_, fun hp => ?_, fun hp => ?_, fun hp => ?_⟩
    · exact phaseStep_writesOnly (hs hp (by decide))
    · obtain ⟨_, _, _, _, _, _, _, rfl⟩ := phaseStep_writesOnly (p := .init) ((step_init hn hp).symm.trans h)
      simp
    · obtain ⟨_, rfl⟩ := phaseStep_writesOnly (hs hp (by decide))
      simp
    · obtain ⟨_, _, _, _, rfl⟩ := phaseStep_writesOnly (hs hp (by decide))
      simp
    · obtain ⟨_, rfl⟩ := phaseStep_writesOnly (hs hp (by decide))
      simp
    · obtain ⟨_, rfl⟩ := phaseStep_writesOnly (hs hp (by decide))
      simp
    · obtain ⟨⟨_, hlt⟩, rfl⟩ := expMix_next (hs hp (by decide))
      simpa using counter_advances hlt .rndSeed .expMix
    · obtain ⟨_, rfl⟩ := phaseStep_writesOnly (hs hp (by decide))
      simp
    · obtain ⟨hlt, rfl⟩ := rndStep_next (hs hp (by decide))
      simpa using counter_advances hlt .accAdd .rndStep
    · exact accAdd_transition (hs hp (by decide))
    · obtain ⟨_, rfl⟩ := phaseStep_writesOnly (hs hp (by decide))
      simp
    · exact phaseStep_writesOnly (hs hp (by decide))

end Sys2Proof.Machine

/-! ## The Padder/Segmenter (40_padder_segmenter.md R90 to R97; 20_memory.md R51, R67) -/

namespace Sys2Proof.Machine

/-- The frame of a block write: every register but `blk` and `phase` is left. -/
theorem State.block_frame (s : State) (b : Vector Byte 128) (p : Phase) :
    (s.setBlk b).setPhase p = { s with blk := b, phase := p } := rfl

/-! ### The core's read of the message -/

theorem readMessage_ok_iff (s : State) (idx : Nat) (b : Byte) :
    readMessage s idx = .ok b ↔ idx < s.L.toNat ∧ s.msg.read idx = some b := by
  by_cases h : idx < s.L.toNat
  · rw [readMessage_below h]
    cases s.msg.read idx <;> simp [h]
  · rw [(readMessage_beyond_iff s idx).2 (Nat.not_lt.1 h)]
    simp [h]

theorem readMessage_absent_iff (s : State) (idx : Nat) :
    readMessage s idx = .error .messageByteAbsent ↔ idx < s.L.toNat ∧ s.msg.read idx = none := by
  by_cases h : idx < s.L.toNat
  · rw [readMessage_below h]
    cases s.msg.read idx <;> simp [h]
  · rw [(readMessage_beyond_iff s idx).2 (Nat.not_lt.1 h)]
    simp [h]

/-- Below `L` a byte of the raw block is the core's read of the message. -/
theorem fillByte_below {s : State} {i : Nat} (h : s.processed.toNat + i < s.L.toNat) :
    fillByte s i = readMessage s (s.processed.toNat + i) := by
  unfold fillByte
  exact if_pos h

theorem fillByte_absent_iff (s : State) (i : Nat) :
    (fillByte s i).isOk = false ↔
      s.processed.toNat + i < s.L.toNat ∧ s.msg.read (s.processed.toNat + i) = none := by
  rw [← Bool.not_eq_true, fillByte_isOk_iff, Classical.not_imp, Option.not_isSome_iff_eq_none]

/-! ### SEG.FILL -/

/-- The block buffer after SEG.FILL. -/
def filledBlock (v : Variant) (s : State) : Vector Byte 128 :=
  setBlock v s.blk (fun i => (fillByte s i).toOption.getD 0)

theorem byteAt_filledBlock (v : Variant) (s : State) {i : Nat} (hi : i < v.bs) :
    byteAt (filledBlock v s) i =
      if s.processed.toNat + i < s.L.toNat then (s.msg.read (s.processed.toNat + i)).getD 0
      else if s.processed.toNat + i = s.L.toNat then 0x80 else 0x00 := by
  rw [filledBlock, byteAt_setBlock, if_pos hi, fillByte_value]

theorem byteAt_filledBlock_above (v : Variant) (s : State) {i : Nat} (hi : v.bs ≤ i) :
    byteAt (filledBlock v s) i = byteAt s.blk i := by
  rw [filledBlock, byteAt_setBlock, if_neg (Nat.not_lt.2 hi)]

/-- The host's duty of R172 item 1 for the block SEG.FILL builds. -/
def blockAvailable (v : Variant) (s : State) : Prop :=
  ∀ i < v.bs, s.processed.toNat + i < s.L.toNat → (s.msg.read (s.processed.toNat + i)).isSome = true

theorem segFill_available {v : Variant} {s : State} (h : blockAvailable v s) :
    segFill v s = .next ((s.setBlk (filledBlock v s)).setPhase .segRoom) :=
  segFill_runs fun i hi => (fillByte_isOk_iff s i).2 (h i hi)

/-- Settles O14: where the block's bytes are available each byte of the block is the value SEG.FILL stores. -/
theorem segFillBuildsRawBlock : Obligations.SegFillBuildsRawBlock := by
  intro v s havail
  refine ⟨_, (Safety.exec_segFillOp v s).trans (segFill_available havail), State.block_frame s _ _, fun i hi => ?_,
    fun i hi => byteAt_filledBlock_above v s hi⟩
  simp only [State.setPhase_blk, State.setBlk_blk, byteAt_filledBlock v s hi]
  refine ⟨fun hlt => ?_, fun heq => ?_, fun hgt => ?_⟩
  · obtain ⟨b, hb⟩ := Option.isSome_iff_exists.1 (havail i hi hlt)
    rw [if_pos hlt, hb, Option.getD_some]
  · rw [if_neg (by omega), if_pos heq]
  · rw [if_neg (by omega), if_neg (by omega)]

/-- Settles O15: SEG.FILL either finds every byte of the block or refuses for an absent message byte. -/
theorem segFillRefusesAbsentByte : Obligations.SegFillRefusesAbsentByte := by
  intro v s
  rw [Safety.exec_segFillOp]
  rcases segFill_cases v s with ⟨hok, hrun⟩ | ⟨⟨i, hi, habsent⟩, hrefuse⟩
  · rw [hrun]
    refine iff_of_false nofun ?_
    rintro ⟨i, hi, habsent⟩
    exact Bool.noConfusion ((hok i hi).symm.trans ((fillByte_absent_iff s i).2 habsent))
  · exact iff_of_true hrefuse ⟨i, hi, (fillByte_absent_iff s i).1 habsent⟩

/-- The message bytes of a block that SEG.FILL has built are what the core's read answers. -/
theorem segFill_reads {v : Variant} {s t : State} (h : segFill v s = .next t) {i : Nat} (hi : i < v.bs)
    (hlt : s.processed.toNat + i < s.L.toNat) : readMessage s (s.processed.toNat + i) = .ok (byteAt t.blk i) := by
  obtain ⟨hok, rfl⟩ := segFill_next h
  rw [State.setPhase_blk, State.setBlk_blk, byteAt_setBlock, if_pos hi, ← fillByte_below hlt]
  cases hb : fillByte s i with
  | ok b => rfl
  | error r => exact absurd (hok i hi) (by rw [hb]; exact Bool.false_ne_true)

/-! ### No operation reads the message beyond `L` -/

open Safety (phaseOp digestCmd) in
/-- Every operation is a command or the micro-operation of a phase. -/
theorem instr_cases (i : Instr) : (∃ v len, i = digestCmd v len) ∨ ∃ v p, phaseOp v p = some i := by
  cases i with
  | digestS len => exact .inl ⟨.short, len, rfl⟩
  | digestL len => exact .inl ⟨.long, len, rfl⟩
  | initS => exact .inr ⟨.short, .init, rfl⟩
  | initL => exact .inr ⟨.long, .init, rfl⟩
  | segFillS => exact .inr ⟨.short, .segFill, rfl⟩
  | segFillL => exact .inr ⟨.long, .segFill, rfl⟩
  | segRoomS => exact .inr ⟨.short, .segRoom, rfl⟩
  | segRoomL => exact .inr ⟨.long, .segRoom, rfl⟩
  | segSynthS => exact .inr ⟨.short, .segSynth, rfl⟩
  | segSynthL => exact .inr ⟨.long, .segSynth, rfl⟩
  | expLoadS => exact .inr ⟨.short, .expLoad, rfl⟩
  | expLoadL => exact .inr ⟨.long, .expLoad, rfl⟩
  | expMixS => exact .inr ⟨.short, .expMix, rfl⟩
  | expMixL => exact .inr ⟨.long, .expMix, rfl⟩
  | rndSeedS => exact .inr ⟨.short, .rndSeed, rfl⟩
  | rndSeedL => exact .inr ⟨.long, .rndSeed, rfl⟩
  | rndStepS => exact .inr ⟨.short, .rndStep, rfl⟩
  | rndStepL => exact .inr ⟨.long, .rndStep, rfl⟩
  | accAddS => exact .inr ⟨.short, .accAdd, rfl⟩
  | accAddL => exact .inr ⟨.long, .accAdd, rfl⟩
  | serOutS => exact .inr ⟨.short, .serOut, rfl⟩
  | serOutL => exact .inr ⟨.long, .serOut, rfl⟩

/-- The only refusal of a micro-operation is SEG.FILL's, of an absent message byte. -/
theorem phaseStep_refused {v : Variant} {s : State} {p : Phase} {r : Refusal} (h : phaseStep v s p = .refused r) :
    p = .segFill ∧ r = .messageByteAbsent := by
  cases p with
  | segFill =>
    rcases segFill_cases v s with ⟨_, hs⟩ | ⟨_, hs⟩ <;> cases hs.symm.trans h
    exact ⟨rfl, rfl⟩
  | segRoom => rcases segRoom_cases v s with ⟨_, hs⟩ | ⟨_, _, hs⟩ | ⟨_, hs⟩ <;> cases hs.symm.trans h
  | expMix =>
    by_cases hr : 16 ≤ s.t.toNat ∧ s.t.toNat < v.nr
    · cases (expMix_runs hr).symm.trans h
    · cases (expMix_stops hr).symm.trans h
  | rndStep =>
    by_cases hr : s.t.toNat < v.nr
    · cases (rndStep_runs hr).symm.trans h
    · cases (rndStep_stops hr).symm.trans h
  | accAdd =>
    cases ht : s.terminal with
    | true => cases (accAdd_terminal ht).symm.trans h
    | false =>
      by_cases hc : s.processed.toNat + v.bs < 2 ^ 64
      · cases (accAdd_more ht hc).symm.trans h
      · cases (accAdd_stops ht hc).symm.trans h
  | _ => cases h

theorem exec_not_beyond (i : Instr) (s : State) : exec i s ≠ .refused .messageReadBeyondLength := by
  intro h
  rcases instr_cases i with ⟨v, len, rfl⟩ | ⟨v, p, hp⟩
  · rw [Safety.exec_digestCmd] at h
    cases hb : busyFlag s with
    | false => cases (acceptCommand_runs hb).symm.trans h
    | true => cases (acceptCommand_refuses hb).symm.trans h
  · cases (phaseStep_refused ((exec_phaseOp hp s).trans h)).2

/-- Settles O48: the read is bounded by `L`, SEG.FILL's message bytes are what it answers, and no operation is refused for
a read beyond `L`. -/
theorem messageReadRefusedBeyondLength : Obligations.MessageReadRefusedBeyondLength := by
  refine ⟨readMessage_ok_iff, readMessage_beyond_iff, readMessage_absent_iff, fun v s t h i hi hlt => ?_,
    exec_not_beyond, fun s h => ?_⟩
  · exact segFill_reads ((Safety.exec_segFillOp v s).symm.trans h) hi hlt
  · cases hf : fetch s with
    | none => simp [step, hf] at h
    | some i => exact exec_not_beyond i s ((step_of_fetch hf).symm.trans h)

/-! ### The trailer -/

section Trailer

variable (v : Variant) (L : BitVec 64) (blk : Vector Byte 128)

theorem writeTrailer_body {i : Nat} (hi : i < v.bs - v.lf) : byteAt (writeTrailer v L blk) i = byteAt blk i := by
  rw [byteAt_writeTrailer, if_pos hi]

theorem writeTrailer_zeros {i : Nat} (hi : v.bs - v.lf ≤ i) (hi8 : i < v.bs - 8) :
    byteAt (writeTrailer v L blk) i = 0x00 := by
  rw [byteAt_writeTrailer, if_neg (Nat.not_lt.2 hi), if_pos hi8]

theorem writeTrailer_length {j : Nat} (hj : j < 8) :
    byteAt (writeTrailer v L blk) (v.bs - 8 + j) = BitVec.ofNat 8 (L.toNat * 8 % 2 ^ 64 / 256 ^ (7 - j)) := by
  have hlf := v.lf_lt
  have hge := v.lf_ge
  rw [byteAt_writeTrailer, if_neg (by omega), if_neg (by omega), if_pos (by omega),
    show v.bs - 1 - (v.bs - 8 + j) = 7 - j by omega]

theorem writeTrailer_above {i : Nat} (hi : v.bs ≤ i) : byteAt (writeTrailer v L blk) i = byteAt blk i := by
  rw [byteAt_writeTrailer, if_neg (by omega), if_neg (by omega), if_neg (Nat.not_lt.2 hi)]

end Trailer

/-! ### SEG.ROOM -/

/-- The frame of the outcome with room. -/
theorem State.room_frame (s : State) (b : Vector Byte 128) :
    (((s.setRoom true).setPhase .expLoad).setBlk b).setTerminal true =
      { s with blk := b, room := true, terminal := true, phase := .expLoad } := rfl

/-- Settles O17: the three outcomes of SEG.ROOM exclude each other, and the first writes the trailer. -/
theorem segRoomDecidesAndFlags : Obligations.SegRoomDecidesAndFlags := by
  intro v s e
  have he : e = s.processed.toNat + v.bs := rfl
  rw [Safety.exec_segRoomOp]
  rcases segRoom_cases v s with ⟨hroom, hs⟩ | ⟨hended, hno, hs⟩ | ⟨hmore, hs⟩
  · refine ⟨_, hs, fun _ => ?_, fun h => absurd h (by omega), fun h => absurd h (by omega)⟩
    have hge := v.lf_ge
    have hlf := v.lf_lt
    refine ⟨State.room_frame s _, fun j hj => ?_, fun j hj => writeTrailer_length v s.L s.blk hj,
      fun i hi => writeTrailer_body v s.L s.blk hi, fun i hi => writeTrailer_above v s.L s.blk hi⟩
    exact writeTrailer_zeros v s.L s.blk (by omega) (by omega)
  · exact ⟨_, hs, fun h => absurd h (by omega), fun _ => rfl, fun h => absurd h (by omega)⟩
  · exact ⟨_, hs, fun h => absurd h (by omega), fun h => absurd h (by omega), fun _ => rfl⟩

/-- SEG.ROOM asks for a synthetic block exactly when the message has ended and its block has no room. -/
theorem segRoom_synthPending {v : Variant} {s : State} (hended : s.L.toNat ≤ s.processed.toNat + v.bs)
    (hpend : s.synthPending = false) :
    ∃ t, segRoom v s = .next t ∧ (t.synthPending = true ↔ s.processed.toNat + v.bs < s.L.toNat + v.lf + 1) := by
  rcases segRoom_cases v s with ⟨hroom, hs⟩ | ⟨_, hno, hs⟩ | ⟨hmore, _⟩
  · exact ⟨_, hs, iff_of_false (by simp [hpend]) (by omega)⟩
  · exact ⟨_, hs, iff_of_true rfl hno⟩
  · omega

/-- Settles O20: at the last raw block the cursor is `L` rounded down to a block, so the room test is one on `L mod B`. -/
theorem syntheticBlockExactlyAtEdgeLengths : Obligations.SyntheticBlockExactlyAtEdgeLengths := by
  intro v s haligned hdue hended hpend
  obtain ⟨t, ht, hiff⟩ := segRoom_synthPending hended hpend
  refine ⟨t, (Safety.exec_segRoomOp v s).trans ht, hiff.trans ?_, hiff.trans ?_⟩
  · cases v <;> simp only [Variant.bs, Variant.lf] at haligned hended ⊢ <;> omega
  · cases v <;> simp only [Variant.bs, Variant.lf] at haligned hended ⊢ <;> omega

/-! ### SEG.SYNTH -/

/-- The block buffer after SEG.SYNTH. -/
def paddingBlock (v : Variant) (s : State) : Vector Byte 128 := writeTrailer v s.L (synthBlock v s.L s.blk)

theorem segSynth_runs (v : Variant) (s : State) :
    segSynth v s =
      .next ((((s.setBlk (paddingBlock v s)).setTerminal true).setSynthPending false).setPhase .expLoad) := rfl

/-- The frame of SEG.SYNTH (Writes list of R93). -/
theorem State.synth_frame (s : State) (b : Vector Byte 128) :
    (((s.setBlk b).setTerminal true).setSynthPending false).setPhase .expLoad =
      { s with blk := b, terminal := true, synthPending := false, phase := .expLoad } := rfl

/-- Below the bit length the padding block is zero, but for the marker. -/
theorem byteAt_paddingBlock (v : Variant) (s : State) {i : Nat} (hi : i < v.bs - 8) :
    byteAt (paddingBlock v s) i = if i = 0 ∧ s.L.toNat % v.bs = 0 then 0x80 else 0x00 := by
  have hlf := v.lf_lt
  by_cases hbody : i < v.bs - v.lf
  · rw [paddingBlock, writeTrailer_body v s.L _ hbody, byteAt_synthBlock, if_pos (by omega)]
  · rw [paddingBlock, writeTrailer_zeros v s.L _ (Nat.not_lt.1 hbody) hi, if_neg (by omega)]

/-- Settles O18: SEG.SYNTH writes its trailer over a block that is zero but for the marker. -/
theorem segSynthBuildsPaddingBlock : Obligations.SegSynthBuildsPaddingBlock := by
  intro v s
  have h8 : 0 < v.bs - 8 := by cases v <;> decide
  refine ⟨_, (Safety.exec_segSynthOp v s).trans (segSynth_runs v s), State.synth_frame s _, ?_, fun i h0 hi => ?_,
    fun j hj => writeTrailer_length v s.L _ hj, fun i hi => ?_⟩
  · exact (byteAt_paddingBlock v s h8).trans (if_congr (and_iff_right rfl) rfl rfl)
  · exact (byteAt_paddingBlock v s hi).trans (if_neg (by omega))
  · refine (writeTrailer_above v s.L _ hi).trans ?_
    rw [byteAt_synthBlock, if_neg (Nat.not_lt.2 hi)]

/-- At an aligned cursor at or past the end of the message and less than a block beyond, the raw block is the marker and
zeros of the padding block. -/
theorem filledBlock_eq_synthBlock {v : Variant} {s : State} (haligned : s.processed.toNat % v.bs = 0)
    (hle : s.L.toNat ≤ s.processed.toNat) (hlt : s.processed.toNat < s.L.toNat + v.bs) :
    filledBlock v s = synthBlock v s.L s.blk := by
  refine blk_ext fun i _ => ?_
  rw [byteAt_synthBlock]
  by_cases hi : i < v.bs
  · have hmarker : s.processed.toNat + i = s.L.toNat ↔ i = 0 ∧ s.L.toNat % v.bs = 0 := by
      cases v <;> simp only [Variant.bs] at haligned hlt hi ⊢ <;> omega
    rw [byteAt_filledBlock v s hi, if_pos hi, if_neg (by omega)]
    exact if_congr hmarker rfl rfl
  · rw [byteAt_filledBlock_above v s (Nat.not_lt.1 hi), if_neg hi]

/-- Settles O19: there SEG.FILL reads no message byte, SEG.ROOM finds room, and both ways write the same trailer over the
same block. -/
theorem synthBlockIsFillThenRoom : Obligations.SynthBlockIsFillThenRoom := by
  intro v s _ haligned hle hlt
  have hlf := v.lf_lt
  have hfill := segFill_available (v := v) (s := s) (fun i _ hi => absurd hi (by omega))
  have hcases := segRoom_cases v ((s.setBlk (filledBlock v s)).setPhase .segRoom)
  simp only [State.setPhase_L, State.setBlk_L, State.setPhase_processed, State.setBlk_processed, State.setPhase_blk,
    State.setBlk_blk] at hcases
  rcases hcases with ⟨_, hroom⟩ | ⟨_, hno, _⟩ | ⟨hmore, _⟩
  · refine ⟨_, _, _, (Safety.exec_segFillOp v s).trans hfill, (Safety.exec_segRoomOp v _).trans hroom,
      (Safety.exec_segSynthOp v s).trans (segSynth_runs v s), rfl, rfl, ?_⟩
    simp [paddingBlock, filledBlock_eq_synthBlock haligned hle hlt]
  · omega
  · omega

end Sys2Proof.Machine

/-! ## The padded message (30_encoding.md R73 to R76; 40_padder_segmenter.md R94, R95) -/

namespace Sys2Proof.Machine

open Safety (rawBlockDue messageAvailable messageOf)

/-! ### The number of blocks -/

/-- Whole blocks: the padded length is what R74 says, with less than a block of zeros. -/
theorem numBlocks_mul (v : Variant) (L : Nat) :
    numBlocks v L * v.bs = L + 1 + numZeros v L + v.lf ∧ numZeros v L ≤ v.bs - 1 := by
  cases v <;> simp only [numZeros, numBlocks, Variant.bs, Variant.lf] <;> omega

theorem numBlocks_least {v : Variant} {L n : Nat} (h : L + 1 + v.lf ≤ n * v.bs) : numBlocks v L ≤ n := by
  cases v <;> simp only [numBlocks, Variant.bs, Variant.lf] at h ⊢ <;> omega

/-- A block follows the raw ones where the last of them has no room. -/
theorem numBlocks_eq_numRawBlocks (v : Variant) (L : Nat) :
    numBlocks v L = if v.lf + 1 ≤ numRawBlocks v L * v.bs - L then numRawBlocks v L else numRawBlocks v L + 1 := by
  by_cases h : v.lf + 1 ≤ numRawBlocks v L * v.bs - L
  · rw [if_pos h]
    cases v <;> simp only [numBlocks, numRawBlocks, Variant.bs, Variant.lf] at h ⊢ <;> omega
  · rw [if_neg h]
    cases v <;> simp only [numBlocks, numRawBlocks, Variant.bs, Variant.lf] at h ⊢ <;> omega

/-- Settles O21: `N` is a quotient rounded up, so its product with the block size is the least multiple that is large
enough. -/
theorem paddedLengthIsSmallestMultiple : Obligations.PaddedLengthIsSmallestMultiple := by
  refine ⟨fun v L => ⟨(numBlocks_mul v L).1, (numBlocks_mul v L).2, fun _ => numBlocks_least,
    numBlocks_eq_numRawBlocks v L⟩, fun L => ?_, by decide, by decide⟩
  obtain ⟨hshort, hzshort⟩ := numBlocks_mul .short L
  obtain ⟨hlong, hzlong⟩ := numBlocks_mul .long L
  exact ⟨hshort, hzshort, hlong, hzlong⟩

/-- A raw block is due at index `k` of a message of length `L`: it starts below `L`, or is the only block of the empty
message (R94). -/
def rawDueAt (v : Variant) (L k : Nat) : Prop := k * v.bs < L ∨ k = 0 ∧ L = 0

/-- A raw block with room is the last block. -/
theorem numBlocks_of_room {v : Variant} {L k : Nat} (hdue : rawDueAt v L k) (hroom : L + v.lf + 1 ≤ k * v.bs + v.bs) :
    numBlocks v L = k + 1 := by
  cases v <;> simp only [rawDueAt, numBlocks, Variant.bs, Variant.lf] at hdue hroom ⊢ <;> omega

/-- After a raw block without room another one follows. -/
theorem numBlocks_of_no_room {v : Variant} {L k : Nat} (hno : k * v.bs + v.bs < L + v.lf + 1) :
    k + 2 ≤ numBlocks v L := by
  cases v <;> simp only [numBlocks, Variant.bs, Variant.lf] at hno ⊢ <;> omega

/-- The block after the last raw one is the last block. -/
theorem numBlocks_of_synth {v : Variant} {L k : Nat} (hle : L ≤ k * v.bs) (hlt : k * v.bs ≤ L + v.lf) :
    numBlocks v L = k + 1 := by
  cases v <;> simp only [numBlocks, Variant.bs, Variant.lf] at hle hlt ⊢ <;> omega

/-! ### The bytes of a block -/

/-- Before the bit length, byte `i` of block `k` is the message byte, the marker or zero. -/
theorem padBlock_body {v : Variant} (m : Nat → Byte) {L k i : Nat} (h : k * v.bs + i < numBlocks v L * v.bs - 8) :
    padBlock v m L k i =
      if k * v.bs + i < L then m (k * v.bs + i) else if k * v.bs + i = L then 0x80 else 0x00 := by
  simp only [padBlock, padByte, v.lw_eq, h, if_true]

/-- The last eight bytes of the last block are the bit length, big-endian. -/
theorem padBlock_length {v : Variant} (m : Nat → Byte) {L k j : Nat} (hk : numBlocks v L = k + 1) (hj : j < 8) :
    padBlock v m L k (v.bs - 8 + j) = BitVec.ofNat 8 (L * 8 / 256 ^ (7 - j)) := by
  have hge := v.lf_ge
  have hlf := v.lf_lt
  have htotal := (numBlocks_mul v L).1
  rw [hk, Nat.succ_mul] at htotal
  simp only [padBlock, padByte, v.lw_eq, hk, Nat.succ_mul]
  rw [if_neg (by omega), if_neg (by omega), if_neg (by omega),
    show k * v.bs + v.bs - 1 - (k * v.bs + (v.bs - 8 + j)) = 7 - j by omega]

/-- A block buffer holds block `k` of the padded message as far as the bit length. -/
def startsPadBlock (v : Variant) (m : Nat → Byte) (L k : Nat) (b : Vector Byte 128) : Prop :=
  ∀ i < v.bs, k * v.bs + i < numBlocks v L * v.bs - 8 → byteAt b i = padBlock v m L k i

/-- A raw block does. -/
theorem startsPadBlock_filledBlock {v : Variant} {s : State} {k : Nat} (hk : s.processed.toNat = k * v.bs) :
    startsPadBlock v (messageOf s) s.L.toNat k (filledBlock v s) := by
  intro i hi h
  rw [byteAt_filledBlock v s hi, padBlock_body _ h, hk]
  rfl

/-- The padding block does before its trailer, at the cursor past the last raw block. -/
theorem startsPadBlock_synthBlock {v : Variant} {s : State} {k : Nat} (hk : s.processed.toNat = k * v.bs)
    (hle : s.L.toNat ≤ k * v.bs) (hlt : k * v.bs ≤ s.L.toNat + v.lf) :
    startsPadBlock v (messageOf s) s.L.toNat k (synthBlock v s.L s.blk) := by
  have hlf := v.lf_lt
  have haligned : s.processed.toNat % v.bs = 0 := by rw [hk, Nat.mul_mod_left]
  rw [← filledBlock_eq_synthBlock haligned (by omega) (by omega)]
  exact startsPadBlock_filledBlock hk

section Blocks

variable {v : Variant} {m : Nat → Byte} {k : Nat} {b : Vector Byte 128}

/-- Where another block follows, the block is a block of the padded message as it is. -/
theorem startsPadBlock.of_no_room {L : Nat} (h : startsPadBlock v m L k b) (hno : k * v.bs + v.bs < L + v.lf + 1)
    {i : Nat} (hi : i < v.bs) : byteAt b i = padBlock v m L k i := by
  have hnext := Nat.mul_le_mul_right v.bs (numBlocks_of_no_room hno)
  have hge := v.lf_ge
  have hlf := v.lf_lt
  rw [Nat.add_mul] at hnext
  exact h i hi (by omega)

/-- The last block is that of the padded message once its trailer is written. -/
theorem startsPadBlock.with_trailer {L : BitVec 64} (h : startsPadBlock v m L.toNat k b) (hL : L.toNat < 2 ^ 61)
    (hlast : numBlocks v L.toNat = k + 1) {i : Nat} (hi : i < v.bs) :
    byteAt (writeTrailer v L b) i = padBlock v m L.toNat k i := by
  have hge := v.lf_ge
  have hlf := v.lf_lt
  have htotal := (numBlocks_mul v L.toNat).1
  rw [hlast, Nat.succ_mul] at htotal
  have hbefore (hi8 : i < v.bs - 8) : k * v.bs + i < numBlocks v L.toNat * v.bs - 8 := by
    rw [hlast, Nat.succ_mul]
    omega
  by_cases h1 : i < v.bs - v.lf
  · rw [writeTrailer_body v L b h1, h i hi (hbefore (by omega))]
  · by_cases h2 : i < v.bs - 8
    · rw [writeTrailer_zeros v L b (by omega) h2, padBlock_body _ (hbefore h2), if_neg (by omega), if_neg (by omega)]
    · obtain ⟨j, rfl⟩ := Nat.exists_eq_add_of_le (Nat.not_lt.1 h2)
      rw [writeTrailer_length v L b (by omega), padBlock_length _ hlast (by omega), Nat.mod_eq_of_lt (by omega)]

end Blocks

theorem rawDueAt_of_due {v : Variant} {s : State} {k : Nat} (hk : s.processed.toNat = k * v.bs) (h : rawBlockDue s) :
    rawDueAt v s.L.toNat k := by
  obtain ⟨_, _, hdue⟩ := h
  rw [hk] at hdue
  exact hdue.imp_right fun ⟨h1, h2⟩ => ⟨(Nat.mul_eq_zero.1 h1).resolve_right v.bs_pos.ne', h2⟩

theorem blockAvailable_of_message (v : Variant) {s : State} (h : messageAvailable s s.L.toNat) : blockAvailable v s :=
  fun _ _ hlt => h _ hlt

/-- Settles O22: a raw block with room and a padding block are the last block, and a raw block without room is one that
another follows. -/
theorem blocksArePaddedMessage : Obligations.BlocksArePaddedMessage := by
  intro v s k hk hL
  refine ⟨fun hdue havail => ?_, fun _ hle hlt => ?_⟩
  · have hraw := rawDueAt_of_due hk hdue
    have hfill := segFill_available (blockAvailable_of_message v havail)
    have hstart := startsPadBlock_filledBlock hk
    have hterm : s.terminal = false := hdue.1
    have hcases := segRoom_cases v ((s.setBlk (filledBlock v s)).setPhase .segRoom)
    simp only [State.setPhase_L, State.setBlk_L, State.setPhase_processed, State.setBlk_processed, State.setPhase_blk,
      State.setBlk_blk, hk] at hcases
    rcases hcases with ⟨hroom, hs⟩ | ⟨_, hno, hs⟩ | ⟨hmore, hs⟩
    · have hlast := numBlocks_of_room hraw hroom
      refine ⟨_, _, (Safety.exec_segFillOp v s).trans hfill, (Safety.exec_segRoomOp v _).trans hs, fun i hi => ?_,
        iff_of_true rfl hlast.symm⟩
      simpa using hstart.with_trailer hL hlast hi
    · have hnext := numBlocks_of_no_room hno
      exact ⟨_, _, (Safety.exec_segFillOp v s).trans hfill, (Safety.exec_segRoomOp v _).trans hs,
        fun i hi => hstart.of_no_room hno hi, iff_of_false (by simp [hterm]) (by omega)⟩
    · have hno : k * v.bs + v.bs < s.L.toNat + v.lf + 1 := by omega
      have hnext := numBlocks_of_no_room hno
      exact ⟨_, _, (Safety.exec_segFillOp v s).trans hfill, (Safety.exec_segRoomOp v _).trans hs,
        fun i hi => hstart.of_no_room hno hi, iff_of_false (by simp [hterm]) (by omega)⟩
  · rw [hk] at hle hlt
    have hlast := numBlocks_of_synth hle hlt
    exact ⟨_, (Safety.exec_segSynthOp v s).trans (segSynth_runs v s),
      fun i hi => (startsPadBlock_synthBlock hk hle hlt).with_trailer hL hlast hi, hlast.symm⟩

end Sys2Proof.Machine

/-! ## The invariant of the sequencer (40_padder_segmenter.md R99; 70_reset_and_hazards.md R170 to R172) -/

namespace Sys2Proof.Safety

open Sys2Proof.Machine

/-! ### Reset and the host's acts -/

/-- Settles O40: after reset the core is in `IDLE` with both spaces empty, the lengths 0 and no block. -/
theorem resetMeetsInvariant : Obligations.ResetMeetsInvariant where
  msgWf := List.Pairwise.nil
  digestWf := List.Pairwise.nil
  digestRange := nofun
  bounded := Nat.zero_le _
  aligned := rfl
  notBoth := fun h => Bool.noConfusion h.1
  latched := fun _ => ⟨by decide, by decide, (Nat.zero_min _).symm⟩
  trailer := fun _ h => Bool.noConfusion h
  position := trivial

/-- The invariant says of the message only that its space is in canonical form. -/
theorem Inv.setMsg {s : State} (hi : Inv s) {m : Memory} (hm : m.wf) : Inv (s.setMsg m) := { hi with msgWf := hm }

/-- The invariant says nothing of the presented command. -/
theorem Inv.setPresented {s : State} (hi : Inv s) (x : Option (BitVec 65)) : Inv (s.setPresented x) := { hi with }

/-- Settles O42: the host's acts write the presented command or the message, or put the core in its reset state. -/
theorem hostActsKeepInvariant : Obligations.HostActsKeepInvariant := by
  intro s hi
  refine ⟨fun w => hi.setPresented (some w), Inv.setMsg resetMeetsInvariant hi.msgWf, fun bytes t ht => ?_,
    fun hb bytes => if_pos hb⟩
  by_cases hb : busyFlag s = true
  · cases (if_pos hb).symm.trans ht
  · cases (if_neg hb).symm.trans ht
    refine ⟨hi.setMsg (Memory.wf_ofBytes 0 bytes), fun i => ?_⟩
    rw [State.setMsg_msg, ← Memory.read_ofBytes 0 bytes i, Nat.zero_add]

/-! ### What the invariant says in each phase -/

section Facts

variable {s : State} (hi : Inv s)
include hi

theorem Inv.length_lt : s.L.toNat < 2 ^ 61 := Nat.lt_of_le_of_lt hi.bounded maxLenInRange.2

/-- The facts of the phase that the core is in. -/
theorem Inv.facts {p : Phase} (h : s.phase = p) : phaseFacts (s.setPhase p) := by
  subst h
  exact hi.position

theorem Inv.due (h : s.phase = .segFill ∨ s.phase = .segRoom) : rawBlockDue s := by
  rcases h with h | h <;> exact hi.facts h

theorem Inv.pending (h : s.phase = .expLoad ∨ s.phase = .expMix ∨ s.phase = .rndSeed ∨ s.phase = .rndStep ∨
    s.phase = .accAdd) : blockPending s := by
  rcases h with h | h | h | h | h
  · exact hi.facts h
  · exact (hi.facts h).1
  · exact (hi.facts h).1
  · exact (hi.facts h).1
  · exact (hi.facts h).1

theorem Inv.mixRange (h : s.phase = .expMix) : 16 ≤ s.t.toNat ∧ s.t.toNat < s.variant.nr := (hi.facts h).2

theorem Inv.roundRange (h : s.phase = .rndStep) : s.t.toNat < s.variant.nr := (hi.facts h).2

theorem Inv.ended (h : s.phase = .serOut ∨ s.phase = .done) : s.terminal = true := by
  rcases h with h | h <;> exact hi.facts h

/-- The cursor of a block that is not terminal is below its register's bound by more than a block. -/
theorem Inv.cursor_fits (h : s.phase = .accAdd) (ht : s.terminal = false) :
    s.processed.toNat + s.variant.bs < 2 ^ 64 := by
  have hle := (hi.pending (.inr (.inr (.inr (.inr h))))).1 ht
  have hlt := hi.length_lt
  have hbs := s.variant.bs_le
  omega

end Facts

/-- Settles O43: the facts are fields of the invariant, read in the phases that the statement names. -/
theorem segmenterFacts : Obligations.SegmenterFacts := by
  intro s hi
  refine ⟨hi.aligned, fun h => (hi.due (.inl h)).2.2, hi.notBoth, fun h => ?_⟩
  have hterm := hi.ended h
  refine ⟨hterm, hi.trailer ?_ hterm⟩
  rcases h with h | h <;> rw [h] <;> decide

/-! ### Steps that leave the command registers -/

/-- The registers that only an acceptance or INIT writes, and the message, are kept. -/
structure KeepsOperands (s t : State) : Prop where
  msg : t.msg = s.msg
  cmd : t.cmd = s.cmd
  variant : t.variant = s.variant
  messageLength : t.messageLength = s.messageLength
  L : t.L = s.L

/-- The block, the cursor and the flags of the Padder/Segmenter are kept as well, and so is the digest. -/
structure KeepsBlock (s t : State) : Prop extends KeepsOperands s t where
  blk : t.blk = s.blk
  processed : t.processed = s.processed
  terminal : t.terminal = s.terminal
  synthPending : t.synthPending = s.synthPending
  digestOut : t.digestOut = s.digestOut

theorem keepsBlock_expander (s : State) (W : Vector Slot 80) (c : BitVec 7) (p : Phase) :
    KeepsBlock s (((s.setW W).setT c).setPhase p) := ⟨⟨rfl, rfl, rfl, rfl, rfl⟩, rfl, rfl, rfl, rfl, rfl⟩

theorem keepsBlock_round (s : State) (r : Oct Slot) (c : BitVec 7) (p : Phase) :
    KeepsBlock s (((s.setRegs r).setT c).setPhase p) := ⟨⟨rfl, rfl, rfl, rfl, rfl⟩, rfl, rfl, rfl, rfl, rfl⟩

section Kept

variable {s t : State}

theorem KeepsBlock.blockPending (hk : KeepsBlock s t) (h : blockPending s) : blockPending t := by
  unfold Safety.blockPending
  rw [hk.terminal, hk.processed, hk.L, hk.synthPending, hk.variant]
  exact h

variable (hi : Inv s) (hp : s.phase ≠ .init)
include hi hp

/-- Outside `INIT`, a step that keeps the operands and `DIG` keeps the clauses of the invariant about them. -/
theorem Inv.of_keepsOperands (hk : KeepsOperands s t) (hd : t.digestOut = s.digestOut)
    (haligned : t.processed.toNat % s.variant.bs = 0) (hboth : ¬(t.terminal = true ∧ t.synthPending = true))
    (htrailer : t.terminal = true → carriesTrailer t) (hpos : phaseFacts t) : Inv t where
  msgWf := hk.msg ▸ hi.msgWf
  digestWf := hd ▸ hi.digestWf
  digestRange := hd ▸ hi.digestRange
  bounded := hk.L ▸ hi.bounded
  aligned := hk.variant ▸ haligned
  notBoth := hboth
  latched := fun _ => by
    rw [hk.variant, hk.cmd, hk.messageLength, hk.L]
    exact hi.latched hp
  trailer := fun _ => htrailer
  position := hpos

/-- Outside `INIT`, a step that keeps the block as well has only the facts of its next phase to meet. -/
theorem Inv.of_keepsBlock (hk : KeepsBlock s t) (hpos : phaseFacts t) : Inv t := by
  refine hi.of_keepsOperands hp hk.toKeepsOperands hk.digestOut (hk.processed ▸ hi.aligned) ?_ (fun ht => ?_) hpos
  · rw [hk.terminal, hk.synthPending]
    exact hi.notBoth
  · exact (carriesTrailer_congr hk.variant hk.L hk.blk).2 (hi.trailer hp (hk.terminal ▸ ht))

end Kept

/-! ### Every operation keeps the invariant -/

section Operations

variable {s t : State} (hi : Inv s)
include hi

theorem Inv.after_accept (w : BitVec 65) : Inv (((s.setCmd w).setPhase .init).setPresented none) :=
  { hi with
    latched := fun h => absurd rfl h
    trailer := fun h => absurd rfl h
    position := trivial }

theorem Inv.after_initCompute (h : initCompute (cmdVariant s.cmd) s = .next t) : Inv t := by
  cases (initCompute_runs _ s).symm.trans h
  have hL := toNat_clampLength Config.maxLen (cmdLength s.cmd)
  exact
    { msgWf := hi.msgWf
      digestWf := hi.digestWf
      digestRange := hi.digestRange
      bounded := hL ▸ Nat.min_le_right _ _
      aligned := Nat.zero_mod _
      notBoth := fun h => Bool.noConfusion h.1
      latched := fun _ => ⟨rfl, rfl, hL⟩
      trailer := fun _ h => Bool.noConfusion h
      position := ⟨rfl, rfl, (Nat.eq_zero_or_pos _).symm.imp id fun h0 => ⟨rfl, h0⟩⟩ }

theorem Inv.after_segFill (hp : s.phase = .segFill) (h : segFill s.variant s = .next t) : Inv t := by
  have hdue := hi.due (.inl hp)
  obtain ⟨b, rfl⟩ := phaseStep_writesOnly (p := .segFill) h
  exact hi.of_keepsOperands (by rw [hp]; decide) ⟨rfl, rfl, rfl, rfl, rfl⟩ rfl hi.aligned hi.notBoth
    (fun ht => Bool.noConfusion (hdue.1.symm.trans ht)) hdue

theorem Inv.after_segRoom (hp : s.phase = .segRoom) (h : segRoom s.variant s = .next t) : Inv t := by
  obtain ⟨hterm, hpend, hdue⟩ := hi.due (.inr hp)
  have hlf := s.variant.lf_lt
  have hne : s.phase ≠ .init := by rw [hp]; decide
  rcases segRoom_next h with ⟨_, rfl⟩ | ⟨hended, hno, rfl⟩ | ⟨hmore, rfl⟩
  · generalize hb : writeTrailer s.variant s.L s.blk = b
    refine hi.of_keepsOperands hne ⟨rfl, rfl, rfl, rfl, rfl⟩ rfl hi.aligned (by simp [hpend])
      (fun _ => carriesTrailer_of_written rfl rfl hb.symm hi.length_lt) ?_
    exact ⟨nofun, nofun, fun h => Bool.noConfusion (hpend.symm.trans h)⟩
  · refine hi.of_keepsOperands hne ⟨rfl, rfl, rfl, rfl, rfl⟩ rfl hi.aligned (by simp [hterm]) (by simp [hterm]) ?_
    exact ⟨fun _ => show s.processed.toNat ≤ s.L.toNat by omega, nofun,
      fun _ => show 0 < s.L.toNat ∧ s.L.toNat ≤ s.processed.toNat + s.variant.bs by omega⟩
  · refine hi.of_keepsOperands hne ⟨rfl, rfl, rfl, rfl, rfl⟩ rfl hi.aligned (by simp [hterm]) (by simp [hterm]) ?_
    exact ⟨fun _ => show s.processed.toNat ≤ s.L.toNat by omega, fun _ _ => hmore,
      fun h => Bool.noConfusion (hpend.symm.trans h)⟩

theorem Inv.after_segSynth (hp : s.phase = .segSynth) (h : segSynth s.variant s = .next t) : Inv t := by
  cases (segSynth_eq s.variant s).symm.trans h
  generalize hb : writeTrailer s.variant s.L (synthBlock s.variant s.L s.blk) = b
  exact hi.of_keepsOperands (by rw [hp]; decide) ⟨rfl, rfl, rfl, rfl, rfl⟩ rfl hi.aligned (by simp)
    (fun _ => carriesTrailer_of_written rfl rfl hb.symm hi.length_lt) ⟨nofun, nofun, nofun⟩

theorem Inv.after_expLoad (hp : s.phase = .expLoad) (h : expLoad s.variant s = .next t) : Inv t := by
  obtain ⟨W, rfl⟩ := phaseStep_writesOnly (p := .expLoad) h
  have hk := keepsBlock_expander s W 16 .expMix
  exact hi.of_keepsBlock (by rw [hp]; decide) hk
    ⟨hk.blockPending (hi.pending (.inl hp)), Nat.le_refl 16, s.variant.nr_gt⟩

theorem Inv.after_expMix (hp : s.phase = .expMix) (h : expMix s.variant s = .next t) : Inv t := by
  obtain ⟨⟨h16, hlt⟩, rfl⟩ := expMix_next h
  generalize s.W.setIfInBounds s.t.toNat (toSlot s.variant (mixWord s.variant s.W s.t.toNat)) = W
  have hne : s.phase ≠ .init := by rw [hp]; decide
  have hpend := hi.pending (.inr (.inl hp))
  have hc : (s.t + 1).toNat = s.t.toNat + 1 := counter_succ hlt
  by_cases hlast : s.t.toNat + 1 = s.variant.nr
  · rw [if_pos hlast]
    have hk := keepsBlock_expander s W (s.t + 1) .rndSeed
    exact hi.of_keepsBlock hne hk ⟨hk.blockPending hpend, hc.trans hlast⟩
  · rw [if_neg hlast]
    have hk := keepsBlock_expander s W (s.t + 1) .expMix
    exact hi.of_keepsBlock hne hk ⟨hk.blockPending hpend, show 16 ≤ (s.t + 1).toNat by omega,
      show (s.t + 1).toNat < s.variant.nr by omega⟩

theorem Inv.after_rndSeed (hp : s.phase = .rndSeed) (h : rndSeed s.variant s = .next t) : Inv t := by
  obtain ⟨r, rfl⟩ := phaseStep_writesOnly (p := .rndSeed) h
  have hk := keepsBlock_round s r 0 .rndStep
  exact hi.of_keepsBlock (by rw [hp]; decide) hk
    ⟨hk.blockPending (hi.pending (.inr (.inr (.inl hp)))), Nat.zero_lt_of_lt s.variant.nr_gt⟩

theorem Inv.after_rndStep (hp : s.phase = .rndStep) (h : rndStep s.variant s = .next t) : Inv t := by
  obtain ⟨hlt, rfl⟩ := rndStep_next h
  generalize regSlots s.variant _ = r
  have hne : s.phase ≠ .init := by rw [hp]; decide
  have hpend := hi.pending (.inr (.inr (.inr (.inl hp))))
  have hc : (s.t + 1).toNat = s.t.toNat + 1 := counter_succ hlt
  by_cases hlast : s.t.toNat + 1 = s.variant.nr
  · rw [if_pos hlast]
    have hk := keepsBlock_round s r (s.t + 1) .accAdd
    exact hi.of_keepsBlock hne hk ⟨hk.blockPending hpend, hc.trans hlast⟩
  · rw [if_neg hlast]
    have hk := keepsBlock_round s r (s.t + 1) .rndStep
    exact hi.of_keepsBlock hne hk ⟨hk.blockPending hpend, show (s.t + 1).toNat < s.variant.nr by omega⟩

theorem Inv.after_accAdd (hp : s.phase = .accAdd) (h : accAdd s.variant s = .next t) : Inv t := by
  have hne : s.phase ≠ .init := by rw [hp]; decide
  have hpend := hi.pending (.inr (.inr (.inr (.inr hp))))
  rcases accAdd_next h with ⟨ht, rfl⟩ | ⟨ht, hc, rfl⟩ <;> generalize accumulated s.variant s = H
  · exact hi.of_keepsOperands hne ⟨rfl, rfl, rfl, rfl, rfl⟩ rfl hi.aligned hi.notBoth
      (fun _ => (carriesTrailer_congr (s := s) rfl rfl rfl).2 (hi.trailer hne ht)) ht
  · have hcursor : (BitVec.ofNat 64 (s.processed.toNat + s.variant.bs)).toNat = s.processed.toNat + s.variant.bs :=
      (BitVec.toNat_ofNat _ _).trans (Nat.mod_eq_of_lt hc)
    refine hi.of_keepsOperands hne ⟨rfl, rfl, rfl, rfl, rfl⟩ rfl ?_ hi.notBoth
      (fun h => Bool.noConfusion (ht.symm.trans h)) ?_
    · rw [State.setPhase_processed, State.setProcessed_processed, hcursor, Nat.add_mod_right]
      exact hi.aligned
    · cases hy : s.synthPending with
      | true =>
        refine ⟨ht, hy, (hpend.2.2 hy).1, ?_⟩
        rw [State.setPhase_processed, State.setProcessed_processed, hcursor]
        exact (hpend.2.2 hy).2
      | false =>
        refine ⟨ht, hy, .inl ?_⟩
        rw [State.setPhase_processed, State.setProcessed_processed, hcursor]
        exact hpend.2.1 ht hy

theorem Inv.after_serOut (hp : s.phase = .serOut) (h : serOut s.variant s = .next t) : Inv t := by
  have hne : s.phase ≠ .init := by rw [hp]; decide
  have ht := hi.ended (.inl hp)
  cases h
  exact
    { msgWf := hi.msgWf
      digestWf := Memory.wf_writeUpTo hi.digestWf _ _
      digestRange := fun c hc => (Memory.mem_writeUpTo hc).elim (fun hlt => Nat.lt_of_lt_of_le hlt s.variant.ds_le)
        (hi.digestRange c)
      bounded := hi.bounded
      aligned := hi.aligned
      notBoth := hi.notBoth
      latched := fun _ => hi.latched hne
      trailer := fun _ _ => (carriesTrailer_congr (s := s) rfl rfl rfl).2 (hi.trailer hne ht)
      position := ht }

end Operations

/-- Settles O41: an acceptance and the operation of each phase keep the invariant. -/
theorem stepKeepsInvariant : Obligations.StepKeepsInvariant := by
  intro s t hi h
  rcases step_cases h with ⟨w, _, _, rfl⟩ | ⟨hn, _⟩
  · exact hi.after_accept w
  · have hs {p : Phase} (hp : s.phase = p) (hne : p ≠ .init) : phaseStep s.variant s p = .next t :=
      (step_at hn hp hne).symm.trans h
    cases hp : s.phase with
    | idle => cases hs hp (by decide); exact hi
    | init => exact hi.after_initCompute ((step_init hn hp).symm.trans h)
    | segFill => exact hi.after_segFill hp (hs hp (by decide))
    | segRoom => exact hi.after_segRoom hp (hs hp (by decide))
    | segSynth => exact hi.after_segSynth hp (hs hp (by decide))
    | expLoad => exact hi.after_expLoad hp (hs hp (by decide))
    | expMix => exact hi.after_expMix hp (hs hp (by decide))
    | rndSeed => exact hi.after_rndSeed hp (hs hp (by decide))
    | rndStep => exact hi.after_rndStep hp (hs hp (by decide))
    | accAdd => exact hi.after_accAdd hp (hs hp (by decide))
    | serOut => exact hi.after_serOut hp (hs hp (by decide))
    | done => cases hs hp (by decide); exact hi

/-! ### What stops the core -/

/-- SEG.FILL runs exactly where the block's message bytes are available. -/
theorem segFill_runs_iff (v : Variant) (s : State) : (∃ t, segFill v s = .next t) ↔ blockAvailable v s :=
  ⟨fun ⟨_, ht⟩ i hi => (fillByte_isOk_iff s i).1 ((segFill_next ht).1 i hi), fun h => ⟨_, segFill_available h⟩⟩

/-- In a state of the invariant every operation but SEG.FILL runs: the counters are in range and the cursor fits. -/
theorem Inv.phaseStep_runs {s : State} (hi : Inv s) (hp : s.phase ≠ .segFill) :
    ∃ t, phaseStep (activeVariant s) s s.phase = .next t := by
  have hv {p : Phase} (h : s.phase = p) (hne : p ≠ .init) : activeVariant s = s.variant :=
    activeVariant_of_ne (h ▸ hne)
  cases h : s.phase with
  | segFill => exact absurd h hp
  | segRoom => rcases segRoom_cases (activeVariant s) s with ⟨_, hs⟩ | ⟨_, _, hs⟩ | ⟨_, hs⟩ <;> exact ⟨_, hs⟩
  | expMix =>
    rw [hv h (by decide)]
    exact ⟨_, expMix_runs (hi.mixRange h)⟩
  | rndStep =>
    rw [hv h (by decide)]
    exact ⟨_, rndStep_runs (hi.roundRange h)⟩
  | accAdd =>
    rw [hv h (by decide)]
    cases ht : s.terminal with
    | true => exact ⟨_, accAdd_terminal ht⟩
    | false => exact ⟨_, accAdd_more ht (hi.cursor_fits h ht)⟩
  | _ => exact ⟨_, rfl⟩

/-- Settles O44: a presented command is accepted exactly where `busy = 0`, and of the operations only SEG.FILL can stop,
for an absent message byte. -/
theorem stopsOnlyOnHostBreach : Obligations.StopsOnlyOnHostBreach := by
  intro s hi
  unfold runs hostKeepsDuties
  cases hw : s.presented with
  | some w =>
    rw [step_presented hw]
    cases hb : busyFlag s with
    | false =>
      refine iff_of_true ⟨_, acceptCommand_runs hb⟩ ⟨nofun, fun hp => ?_⟩
      rcases (busyFlag_false_iff s).1 hb with h | h <;> cases h.symm.trans hp
    | true =>
      rw [acceptCommand_refuses hb]
      exact iff_of_false nofun (fun h => nomatch h.1 rfl)
  | none =>
    by_cases hp : s.phase = .segFill
    · rw [step_at hw hp (by decide)]
      exact (segFill_runs_iff s.variant s).trans ⟨fun h => ⟨fun _ => rfl, fun _ => h⟩, fun h => h.2 hp⟩
    · rw [step_phase hw]
      exact iff_of_true (hi.phaseStep_runs hp) ⟨fun _ => rfl, fun h => absurd h hp⟩

end Sys2Proof.Safety

/-! ## The functions on words, bit by bit (41_schedule_expander.md R107 to R112; 42_compression_round.md R119 to R123) -/

namespace Sys2Proof.Machine

section Bits

variable {w : Nat} (x : BitVec w)

/-- The two shifts of a rotation do not overlap: below `w - n` the bit comes from the right shift, above from the left. -/
theorem getLsbD_rotr {n i : Nat} (hn : n < w) (hi : i < w) :
    (rotr n x).getLsbD i = x.getLsbD ((i + n) % w) := by
  rw [rotr, BitVec.getLsbD_xor, BitVec.getLsbD_ushiftRight, BitVec.getLsbD_shiftLeft, Nat.add_comm n i]
  by_cases h : i + n < w
  · have hlow : i < w - n := by omega
    simp [Nat.mod_eq_of_lt h, hlow]
  · have hhigh : ¬i < w - n := by omega
    have hmod : (i + n) % w = i - (w - n) := by
      rw [Nat.mod_eq_sub_mod (Nat.not_lt.1 h), Nat.mod_eq_of_lt (by omega)]
      omega
    simp [hmod, hhigh, hi, BitVec.getLsbD_of_ge x (i + n) (Nat.not_lt.1 h)]

theorem getLsbD_shr (n i : Nat) : (shr n x).getLsbD i = if i + n < w then x.getLsbD (i + n) else false := by
  rw [shr, BitVec.getLsbD_ushiftRight, Nat.add_comm n i]
  by_cases h : i + n < w
  · rw [if_pos h]
  · rw [if_neg h, BitVec.getLsbD_of_ge x _ (Nat.not_lt.1 h)]

theorem getLsbD_smallSigma {n : Amounts} {i : Nat} (hp : n.p < w) (hq : n.q < w) (hi : i < w) :
    (smallSigma n x).getLsbD i =
      ((x.getLsbD ((i + n.p) % w) ^^ x.getLsbD ((i + n.q) % w)) ^^
        (if i + n.r < w then x.getLsbD (i + n.r) else false)) := by
  rw [smallSigma, BitVec.getLsbD_xor, BitVec.getLsbD_xor, getLsbD_rotr x hp hi, getLsbD_rotr x hq hi,
    getLsbD_shr]

theorem getLsbD_bigSigma {n : Amounts} {i : Nat} (hp : n.p < w) (hq : n.q < w)
    (hr : n.r < w) (hi : i < w) :
    (bigSigma n x).getLsbD i =
      ((x.getLsbD ((i + n.p) % w) ^^ x.getLsbD ((i + n.q) % w)) ^^ x.getLsbD ((i + n.r) % w)) := by
  rw [bigSigma, BitVec.getLsbD_xor, BitVec.getLsbD_xor, getLsbD_rotr x hp hi, getLsbD_rotr x hq hi,
    getLsbD_rotr x hr hi]

end Bits

theorem bigSigma_zero {w : Nat} (n : Amounts) : bigSigma n (0 : BitVec w) = 0 := by
  simp [bigSigma, rotr]

/-- Every bit of the all-ones word is the exclusive or of three ones. -/
theorem bigSigma_allOnes {w : Nat} {n : Amounts} (hp : n.p < w) (hq : n.q < w)
    (hr : n.r < w) : bigSigma n (BitVec.allOnes w) = BitVec.allOnes w := by
  refine BitVec.eq_of_getLsbD_eq fun i hi => ?_
  rw [getLsbD_bigSigma _ hp hq hr hi]
  have hw : 0 < w := Nat.zero_lt_of_lt hi
  simp [Nat.mod_lt _ hw, hi]

/-- Settles O26: the bits of the two shifts of a rotation, and of the one shift. -/
theorem rotateAndShiftBits : Obligations.RotateAndShiftBits :=
  fun _ n x _ hn i hi => ⟨getLsbD_rotr x hn hi, getLsbD_shr x n i⟩

/-- Settles O27: the two rotations and the shift of `σ`, at the amounts of each variant. -/
theorem smallSigmaBits : Obligations.SmallSigmaBits :=
  ⟨fun x _ hi => ⟨getLsbD_smallSigma x (n := Variant.s0 .short) (by decide) (by decide) hi,
      getLsbD_smallSigma x (n := Variant.s1 .short) (by decide) (by decide) hi⟩,
    fun x _ hi => ⟨getLsbD_smallSigma x (n := Variant.s0 .long) (by decide) (by decide) hi,
      getLsbD_smallSigma x (n := Variant.s1 .long) (by decide) (by decide) hi⟩⟩

/-- The rotate amounts of `Σ0` and `Σ1` are below the word width. -/
theorem bigSigma_amounts (v : Variant) :
    (v.bigS0.p < v.ww ∧ v.bigS0.q < v.ww ∧ v.bigS0.r < v.ww) ∧
      v.bigS1.p < v.ww ∧ v.bigS1.q < v.ww ∧ v.bigS1.r < v.ww := by
  cases v <;> decide

theorem getLsbD_bigSigma0 (v : Variant) (x : Word v) {i : Nat} (hi : i < v.ww) :
    (bigSigma0 v x).getLsbD i = ((x.getLsbD ((i + v.bigS0.p) % v.ww) ^^ x.getLsbD ((i + v.bigS0.q) % v.ww)) ^^
      x.getLsbD ((i + v.bigS0.r) % v.ww)) := by
  obtain ⟨⟨hp, hq, hr⟩, _⟩ := bigSigma_amounts v
  exact getLsbD_bigSigma x hp hq hr hi

theorem getLsbD_bigSigma1 (v : Variant) (x : Word v) {i : Nat} (hi : i < v.ww) :
    (bigSigma1 v x).getLsbD i = ((x.getLsbD ((i + v.bigS1.p) % v.ww) ^^ x.getLsbD ((i + v.bigS1.q) % v.ww)) ^^
      x.getLsbD ((i + v.bigS1.r) % v.ww)) := by
  obtain ⟨_, hp, hq, hr⟩ := bigSigma_amounts v
  exact getLsbD_bigSigma x hp hq hr hi

/-- Settles O30: the three rotations of `Σ`, at the amounts of each variant. -/
theorem bigSigmaBits : Obligations.BigSigmaBits := by
  refine ⟨fun x _ hi => ⟨getLsbD_bigSigma0 .short x hi, getLsbD_bigSigma1 .short x hi⟩,
    fun x _ hi => ⟨getLsbD_bigSigma0 .long x hi, getLsbD_bigSigma1 .long x hi⟩, fun v => ?_⟩
  obtain ⟨⟨hp0, hq0, hr0⟩, hp1, hq1, hr1⟩ := bigSigma_amounts v
  exact ⟨bigSigma_zero _, bigSigma_zero _, bigSigma_allOnes hp0 hq0 hr0, bigSigma_allOnes hp1 hq1 hr1⟩

/-! ## The constant tables (10_state.md R28 to R31) -/

theorem length_k256 : k256.length = 64 := by decide

theorem length_k512 : k512.length = 80 := by decide

theorem length_h0Short : h0Short.length = 8 := by decide

theorem length_h0Long : h0Long.length = 8 := by decide

/-- An entry of a table inside its length is what the look-up with a default answers. -/
theorem getElem?_eq_getD {α : Type} {l : List α} {n i : Nat} (hl : l.length = n) (h : i < n) (d : α) :
    l[i]? = some (l.getD i d) := by
  rw [List.getD_eq_getElem?_getD, List.getElem?_eq_getElem (hl ▸ h), Option.getD_some]

/-- The first 80 primes. -/
def firstPrimes : List Nat :=
  [2, 3, 5, 7, 11, 13, 17, 19, 23, 29, 31, 37, 41, 43, 47, 53, 59, 61, 67, 71, 73, 79, 83, 89, 97, 101, 103, 107, 109,
    113, 127, 131, 137, 139, 149, 151, 157, 163, 167, 173, 179, 181, 191, 193, 197, 199, 211, 223, 227, 229, 233, 239,
    241, 251, 257, 263, 269, 271, 277, 281, 283, 293, 307, 311, 313, 317, 331, 337, 347, 349, 353, 359, 367, 373, 379,
    383, 389, 397, 401, 409]

/-- They are what trial division leaves of the numbers below 410. -/
theorem firstPrimes_eq :
    (List.range 410).filter (fun n => 2 ≤ n && (List.range n).all (fun d => d < 2 || n % d != 0)) = firstPrimes := by
  decide +kernel

/-- `q * 2^w + K` is the integer `e`-th root of `p * 2^(e*w)`, for some integer part `q` of the root. -/
def IsRootFraction (e w p K : Nat) : Prop :=
  ∃ q < 8, (q * 2 ^ w + K) ^ e ≤ p * 2 ^ (e * w) ∧ p * 2 ^ (e * w) < (q * 2 ^ w + K + 1) ^ e

theorem roundConst_short_root :
    ∀ t < 64, IsRootFraction 3 32 (firstPrimes.getD t 0) (roundConst .short t).toNat := by
  unfold IsRootFraction
  decide +kernel

theorem roundConst_long_root :
    ∀ t < 80, IsRootFraction 3 64 (firstPrimes.getD t 0) (roundConst .long t).toNat := by
  unfold IsRootFraction
  decide +kernel

theorem initialWord_short_root :
    ∀ i < 8, IsRootFraction 2 32 (firstPrimes.getD i 0) (initialWord .short i).toNat := by
  unfold IsRootFraction
  decide +kernel

theorem initialWord_long_root :
    ∀ i < 8, IsRootFraction 2 64 (firstPrimes.getD i 0) (initialWord .long i).toNat := by
  unfold IsRootFraction
  decide +kernel

/-- Settles O34: the lookups are entries inside the tables, and each is checked to be the root of its prime. -/
theorem constantTablesAreRoots : Obligations.ConstantTablesAreRoots := by
  unfold Obligations.ConstantTablesAreRoots
  intro primes
  have hprimes : primes = firstPrimes := firstPrimes_eq
  rw [hprimes]
  exact ⟨rfl, length_k256, length_k512, length_h0Short, length_h0Long,
    fun _ ht => getElem?_eq_getD length_k256 ht 0, fun _ ht => getElem?_eq_getD length_k512 ht 0,
    fun _ hi => getElem?_eq_getD length_h0Short hi 0, fun _ hi => getElem?_eq_getD length_h0Long hi 0,
    roundConst_short_root, roundConst_long_root, initialWord_short_root, initialWord_long_root⟩

end Sys2Proof.Machine

/-! ## The State Accumulator (43_state_accumulator.md R130, R131) -/

namespace Sys2Proof.Machine

/-- The frame of ACC.ADD after the terminal block (Writes list of R130). -/
theorem State.accumulate_frame (s : State) (H : Vector Slot 8) (p : Phase) :
    (s.setH H).setPhase p = { s with H := H, processed := s.processed, phase := p } := rfl

/-- The frame of ACC.ADD after any other block, with the cursor of R139. -/
theorem State.accumulate_advance_frame (s : State) (H : Vector Slot 8) (c : BitVec 64) (p : Phase) :
    ((s.setH H).setProcessed c).setPhase p = { s with H := H, processed := c, phase := p } := rfl

@[simp] theorem stateWords_accumulated (v : Variant) (s : State) :
    stateWords v (accumulated v s) = addWords v (stateWords v s.H) (regWords v s.regs) :=
  stateWords_stateSlots v _

/-- The sum of eight words, by index. -/
theorem addWords_getD (v : Variant) (x y : Oct (Word v)) {i : Nat} (h : i < 8) :
    (addWords v x y).toList.getD i 0 = x.toList.getD i 0 + y.toList.getD i 0 := by
  interval_cases i <;> rfl

theorem wordAt_accumulated (v : Variant) (s : State) {i : Nat} (h : i < 8) :
    wordAt v (accumulated v s) i = wordAt v s.H i + (regWords v s.regs).toList.getD i 0 := by
  rw [← stateWords_getD v _ h, stateWords_accumulated, addWords_getD v _ _ h, stateWords_getD v _ h]

/-- Settles O35: both ways on write the same sums, and the transition is the row of R139. -/
theorem accAddFoldsBlock : Obligations.AccAddFoldsBlock := by
  intro v s hfits
  rw [Safety.exec_accAddOp]
  have hsum {i : Nat} (hi : i < 8) : (wordAt v (accumulated v s) i).toNat =
      ((wordAt v s.H i).toNat + ((regWords v s.regs).toList.getD i 0).toNat) % 2 ^ v.ww := by
    rw [wordAt_accumulated v s hi, BitVec.toNat_add]
  rcases Bool.eq_false_or_eq_true s.terminal with ht | ht
  · have hrun := accAdd_terminal (v := v) ht
    exact ⟨_, hrun, State.accumulate_frame s _ _, fun _ hi => hsum hi, accAdd_transition hrun⟩
  · have hrun := accAdd_more (v := v) ht (hfits.resolve_left (by simp [ht]))
    exact ⟨_, hrun, State.accumulate_advance_frame s _ _ _, fun _ hi => hsum hi, accAdd_transition hrun⟩

/-! ### SER.OUT -/

/-- The frame of SER.OUT (Writes list of R131). -/
theorem State.digest_frame (s : State) (d : Memory) (p : Phase) :
    (s.setDigestOut d).setPhase p = { s with digestOut := d, phase := p } := rfl

/-- `DIG` after SER.OUT. -/
def serialized (v : Variant) (s : State) : Memory := s.digestOut.writeUpTo v.ds (digestByte v s.H)

theorem serOut_runs (v : Variant) (s : State) :
    serOut v s = .next ((s.setDigestOut (serialized v s)).setPhase .done) := rfl

/-- Byte `p` of the digest as a number: the word and the place in it are the quotient and the remainder by `WB(v)`. -/
theorem digestByte_eq (v : Variant) (H : Vector Slot 8) (p : Nat) :
    digestByte v H p = BitVec.ofNat 8 ((wordAt v H (p / v.wb)).toNat / 256 ^ (v.wb - 1 - p % v.wb)) :=
  byteBE_eq _ _ _

/-- Settles O36: each byte below `DS(v)` is written with the byte of its word, and no other is written. -/
theorem serOutWritesDigest : Obligations.SerOutWritesDigest := by
  intro v s
  refine ⟨_, (Safety.exec_serOutOp v s).trans (serOut_runs v s), State.digest_frame s _ _, fun i hi j hj => ?_,
    fun a ha => ?_, rfl, rfl⟩
  · have hlt : v.wb * i + j < v.ds := by
      rw [← v.ds_words, Nat.mul_comm v.wb 8]
      exact Nat.mul_add_lt_mul_of_lt_of_lt hi hj
    refine (read_serOut v s _).trans ((if_pos hlt).trans ?_)
    rw [digestByte_eq, Nat.mul_add_div v.wb_pos, Nat.div_eq_of_lt hj, Nat.add_zero, Nat.mul_add_mod, Nat.mod_eq_of_lt hj]
  · exact (read_serOut v s a).trans (if_neg (Nat.not_lt.2 ha))

/-! ## The whole schedule and all the rounds (41_schedule_expander.md R113; 42_compression_round.md R125) -/

/-- The first cells of the schedule hold the words of a list. -/
def scheduleHolds (v : Variant) (ws : List (Word v)) (W : Vector Slot 80) : Prop :=
  ∀ i < ws.length, wordAt v W i = ws.getD i 0

/-- EXP.LOAD leaves the native words of the block. -/
theorem scheduleHolds_loaded (v : Variant) (s : State) :
    scheduleHolds v (nativeWords v (byteAt s.blk)) (loadedSchedule v s) := by
  intro i hi
  rw [length_nativeWords] at hi
  rw [wordAt_loadedSchedule v s hi]
  apply BitVec.eq_of_toNat_eq
  have hw : beNat v.wb (fun j => byteAt s.blk (v.wb * i + j)) < 2 ^ v.ww := by
    rw [← toNat_nativeWord]
    exact (nativeWord v s.blk i).isLt
  simp [nativeWords, hi, toNat_nativeWord, Nat.mod_eq_of_lt hw]

/-- EXP.MIX at the end of the list writes the word that extends it. -/
theorem scheduleHolds_mix {v : Variant} {ws : List (Word v)} {W : Vector Slot 80} (h : scheduleHolds v ws W)
    (h16 : 16 ≤ ws.length) (hlt : ws.length < 80) :
    scheduleHolds v (extendSchedule v ws) (W.setIfInBounds ws.length (toSlot v (mixWord v W ws.length))) := by
  intro i hi
  have hlen : (extendSchedule v ws).length = ws.length + 1 := length_extendBy v 1 ws
  by_cases he : i = ws.length
  · rw [he, wordAt_set_same v W _ _ hlt, mixWord, h _ (by omega), h _ (by omega), h _ (by omega), h _ (by omega)]
    simp [extendSchedule]
  · have hi' : i < ws.length := by omega
    rw [wordAt_set_other v W _ he, h i hi', extendSchedule, List.getD_append _ _ _ _ hi']

/-- The counter of `n` steps advances to that of `n + 1`. -/
theorem counter_next (n : Nat) : BitVec.ofNat 7 n + 1 = BitVec.ofNat 7 (n + 1) := (BitVec.ofNat_add n 1).symm

/-- The core performs EXP.MIX and has `16 + k` words of the schedule that begins with `ws`. -/
structure Mixing (v : Variant) (ws : List (Word v)) (k : Nat) (s : State) : Prop where
  presented : s.presented = none
  variant : s.variant = v
  phase : s.phase = .expMix
  counter : s.t = BitVec.ofNat 7 (16 + k)
  schedule : scheduleHolds v (extendBy v k ws) s.W

section Mixing

variable {v : Variant} {ws : List (Word v)} (hws : ws.length = 16)
include hws

/-- One EXP.MIX step writes one word more. -/
theorem Mixing.step {k : Nat} {s : State} (h : Mixing v ws k s) (hk : 16 + k < v.nr) :
    ∃ W, step s = .next (((s.setW W).setT (BitVec.ofNat 7 (16 + k + 1))).setPhase
        (if 16 + k + 1 = v.nr then .rndSeed else .expMix)) ∧
      scheduleHolds v (extendBy v (k + 1) ws) W := by
  have hnr := v.nr_le
  have ht : s.t.toNat = 16 + k := by rw [h.counter, toNat_counter (by omega)]
  have hlen : (extendBy v k ws).length = 16 + k := by rw [length_extendBy, hws]
  have hmix := scheduleHolds_mix h.schedule (by omega) (by omega)
  refine ⟨_, ?_, hlen ▸ hmix⟩
  rw [step_at h.presented h.phase (by decide), h.variant, ← counter_next, ← h.counter, ← ht]
  exact expMix_runs (by omega)

/-- `n + 1` EXP.MIX steps complete the schedule. -/
theorem Mixing.run (n : Nat) {k : Nat} {s : State} (h : Mixing v ws k s) (hk : 16 + k + (n + 1) = v.nr) :
    ∃ W, BusyRun (n + 1) s (((s.setW W).setT (BitVec.ofNat 7 v.nr)).setPhase .rndSeed) ∧
      scheduleHolds v (extendBy v (v.nr - 16) ws) W := by
  induction n generalizing k s with
  | zero =>
    obtain ⟨W, hstep, hW⟩ := h.step hws (by omega)
    rw [if_pos hk, hk] at hstep
    exact ⟨W, .one (busy_of_phase h.phase (by decide)) hstep, (show v.nr - 16 = k + 1 by omega) ▸ hW⟩
  | succ n ih =>
    obtain ⟨W, hstep, hW⟩ := h.step hws (by omega)
    rw [if_neg (by omega)] at hstep
    have hnext : Mixing v ws (k + 1) (((s.setW W).setT (BitVec.ofNat 7 (16 + k + 1))).setPhase .expMix) :=
      ⟨h.presented, h.variant, rfl, rfl, hW⟩
    obtain ⟨W', hrun, hW'⟩ := ih hnext (by omega)
    exact ⟨W', .step (busy_of_phase h.phase (by decide)) hstep hrun, hW'⟩

end Mixing

/-- From `EXP_LOAD` the schedule of the block is built. -/
theorem schedule_run {s : State} (hn : s.presented = none) (hp : s.phase = .expLoad) :
    ∃ W, BusyRun (1 + (s.variant.nr - 16)) s (((s.setW W).setT (BitVec.ofNat 7 s.variant.nr)).setPhase .rndSeed) ∧
      scheduleHolds s.variant (scheduleOf s.variant (byteAt s.blk)) W := by
  have hnr := s.variant.nr_gt
  have hload : Machine.step s = .next (((s.setW (loadedSchedule s.variant s)).setT 16).setPhase .expMix) :=
    (step_at hn hp (by decide)).trans (expLoad_runs s.variant s)
  have hW := scheduleHolds_loaded s.variant s
  generalize loadedSchedule s.variant s = W at hload hW
  have hmixing : Mixing s.variant (nativeWords s.variant (byteAt s.blk)) 0 (((s.setW W).setT 16).setPhase .expMix) :=
    ⟨hn, rfl, rfl, rfl, hW⟩
  obtain ⟨W', hrun, hW'⟩ := hmixing.run (length_nativeWords _ _) (s.variant.nr - 16 - 1) (by omega)
  refine ⟨W', .trans (.one (busy_of_phase hp (by decide)) hload) ?_, hW'⟩
  rwa [Nat.sub_add_cancel (by omega)] at hrun

/-- Settles O28: EXP.LOAD leaves the native words, and each EXP.MIX step extends them by the word the reference does. -/
theorem scheduleCompleted : Obligations.ScheduleCompleted := by
  intro s hp hn
  obtain ⟨W, hrun, hW⟩ := schedule_run hn hp
  refine ⟨_, hrun.run, State.expander_frame s W _ _, toNat_counter s.variant.nr_le, fun i hi => hW i ?_⟩
  have hnr := s.variant.nr_gt
  rw [scheduleOf, length_extendBy, length_nativeWords]
  omega

/-! ### The rounds -/

/-- The core performs RND.STEP and has performed `k` rounds over the schedule `ws` from the words `r`. -/
structure Rounding (v : Variant) (ws : List (Word v)) (r : Oct (Word v)) (k : Nat) (s : State) : Prop where
  presented : s.presented = none
  variant : s.variant = v
  phase : s.phase = .rndStep
  counter : s.t = BitVec.ofNat 7 k
  schedule : ∀ i < v.nr, wordAt v s.W i = ws.getD i 0
  registers : regWords v s.regs = roundsOf v ws k r

section Rounding

variable {v : Variant} {ws : List (Word v)} {r : Oct (Word v)}

/-- One RND.STEP step performs one round more. -/
theorem Rounding.step {k : Nat} {s : State} (h : Rounding v ws r k s) (hk : k < v.nr) :
    ∃ x, step s = .next (((s.setRegs x).setT (BitVec.ofNat 7 (k + 1))).setPhase
        (if k + 1 = v.nr then .accAdd else .rndStep)) ∧ regWords v x = roundsOf v ws (k + 1) r := by
  have hnr := v.nr_le
  have ht : s.t.toNat = k := by rw [h.counter, toNat_counter (by omega)]
  refine ⟨regSlots v (roundsOf v ws (k + 1) r), ?_, regWords_regSlots v _⟩
  rw [step_at h.presented h.phase (by decide), h.variant, ← counter_next, ← h.counter, roundsOf, ← h.registers,
    ← h.schedule k hk, ← ht]
  exact rndStep_runs (by omega)

/-- `n + 1` RND.STEP steps complete the rounds. -/
theorem Rounding.run (n : Nat) {k : Nat} {s : State} (h : Rounding v ws r k s) (hk : k + (n + 1) = v.nr) :
    ∃ x, BusyRun (n + 1) s (((s.setRegs x).setT (BitVec.ofNat 7 v.nr)).setPhase .accAdd) ∧
      regWords v x = roundsOf v ws v.nr r := by
  induction n generalizing k s with
  | zero =>
    obtain ⟨x, hstep, hx⟩ := h.step (by omega)
    rw [if_pos hk, hk] at hstep
    exact ⟨x, .one (busy_of_phase h.phase (by decide)) hstep, hk ▸ hx⟩
  | succ n ih =>
    obtain ⟨x, hstep, hx⟩ := h.step (by omega)
    rw [if_neg (by omega)] at hstep
    have hnext : Rounding v ws r (k + 1) (((s.setRegs x).setT (BitVec.ofNat 7 (k + 1))).setPhase .rndStep) :=
      ⟨h.presented, h.variant, rfl, rfl, h.schedule, hx⟩
    obtain ⟨x', hrun, hx'⟩ := ih hnext (by omega)
    exact ⟨x', .step (busy_of_phase h.phase (by decide)) hstep hrun, hx'⟩

end Rounding

/-- From `RND_SEED` all the rounds are performed over the schedule in the core. -/
theorem rounds_run {s : State} {ws : List (Word s.variant)} (hn : s.presented = none) (hp : s.phase = .rndSeed)
    (hW : ∀ i < s.variant.nr, wordAt s.variant s.W i = ws.getD i 0) :
    ∃ x, BusyRun (1 + s.variant.nr) s (((s.setRegs x).setT (BitVec.ofNat 7 s.variant.nr)).setPhase .accAdd) ∧
      regWords s.variant x = roundsOf s.variant ws s.variant.nr (stateWords s.variant s.H) := by
  have hnr := s.variant.nr_gt
  have hseed : Machine.step s =
      .next (((s.setRegs (regSlots s.variant (stateWords s.variant s.H))).setT 0).setPhase .rndStep) :=
    (step_at hn hp (by decide)).trans (rndSeed_runs s.variant s)
  have hx : regWords s.variant (regSlots s.variant (stateWords s.variant s.H)) = stateWords s.variant s.H :=
    regWords_regSlots _ _
  generalize regSlots s.variant (stateWords s.variant s.H) = x at hseed hx
  have hrounding : Rounding s.variant ws (stateWords s.variant s.H) 0 (((s.setRegs x).setT 0).setPhase .rndStep) :=
    ⟨hn, rfl, rfl, rfl, hW, hx⟩
  obtain ⟨x', hrun, hx'⟩ := hrounding.run (s.variant.nr - 1) (by omega)
  refine ⟨x', .trans (.one (busy_of_phase hp (by decide)) hseed) ?_, hx'⟩
  rwa [Nat.sub_add_cancel (by omega)] at hrun

/-- Settles O33: RND.SEED takes the running state, and each RND.STEP step performs one round of the reference. -/
theorem roundsCompleted : Obligations.RoundsCompleted := by
  intro s hp hn
  have hW : ∀ i < s.variant.nr,
      wordAt s.variant s.W i = ((List.range s.variant.nr).map (wordAt s.variant s.W)).getD i 0 := fun i hi => by
    simp [hi]
  obtain ⟨x, hrun, hx⟩ := rounds_run hn hp hW
  exact ⟨_, hrun.run, State.round_frame s x _ _, toNat_counter s.variant.nr_le, hx⟩

end Sys2Proof.Machine

/-! ## The whole computation (44_sequencer_and_digest_command.md R139 to R141; 43_state_accumulator.md R133)

A computation is followed block by block. `InProgress` is what holds between two operations, `RawDue` and `SynthDue` what
holds when a block is about to be built, `Built` when it stands in the buffer and `Folding` when its rounds are done; each
leads to the next by a `BusyRun` whose length is counted. -/

namespace Sys2Proof.Machine

open Safety (rawBlockDue messageOf effectiveLength messageAvailable)

/-! ### What holds during a computation -/

/-- The message bytes of a space, where they are available. -/
def messageByte (M : Memory) (i : Nat) : Byte := (M.read i).getD 0

/-- The computation on the message in `M` of length `L`, with `k` blocks folded into the running state. -/
structure InProgress (v : Variant) (M : Memory) (L k : Nat) (s : State) : Prop where
  presented : s.presented = none
  variant : s.variant = v
  length : s.L.toNat = L
  msg : s.msg = M
  cursor : s.processed.toNat = k * v.bs
  state : stateWords v s.H = stateAfter v (messageByte M) L k

/-- A raw block is about to be built. -/
structure RawDue (v : Variant) (M : Memory) (L k : Nat) (s : State) : Prop extends InProgress v M L k s where
  phase : s.phase = .segFill
  due : rawBlockDue s

/-- SEG.FILL has built block `k`, a raw one. -/
structure Filled (v : Variant) (M : Memory) (L k : Nat) (s : State) : Prop extends InProgress v M L k s where
  phase : s.phase = .segRoom
  terminal : s.terminal = false
  synthPending : s.synthPending = false
  due : rawDueAt v L k
  block : startsPadBlock v (messageByte M) L k s.blk

/-- A synthetic block is about to be built. -/
structure SynthDue (v : Variant) (M : Memory) (L k : Nat) (s : State) : Prop extends InProgress v M L k s where
  phase : s.phase = .segSynth
  ended : L ≤ k * v.bs
  noRoom : k * v.bs ≤ L + v.lf

/-- Block `k` of the padded message stands in the block buffer. -/
structure Built (v : Variant) (M : Memory) (L k : Nat) (s : State) : Prop extends InProgress v M L k s where
  phase : s.phase = .expLoad
  block : ∀ i < v.bs, byteAt s.blk i = padBlock v (messageByte M) L k i

/-- The rounds of block `k` are done. -/
structure Folding (v : Variant) (M : Memory) (L k : Nat) (s : State) : Prop extends InProgress v M L k s where
  phase : s.phase = .accAdd
  folded : stateWords v (accumulated v s) = stateAfter v (messageByte M) L (k + 1)

/-- Every block is folded into the running state. -/
structure Folded (v : Variant) (M : Memory) (L : Nat) (s : State) : Prop where
  presented : s.presented = none
  variant : s.variant = v
  phase : s.phase = .serOut
  state : stateWords v s.H = stateAfter v (messageByte M) L (numBlocks v L)

section Computation

variable {v : Variant} {M : Memory} {L k : Nat} {s : State}

namespace InProgress

theorem messageOf (h : InProgress v M L k s) : messageOf s = messageByte M := by
  rw [← h.msg]
  rfl

theorem setPhase (h : InProgress v M L k s) (p : Phase) : InProgress v M L k (s.setPhase p) := { h with }

theorem setBlk (h : InProgress v M L k s) (b : Vector Byte 128) : InProgress v M L k (s.setBlk b) := { h with }

theorem setW (h : InProgress v M L k s) (W : Vector Slot 80) : InProgress v M L k (s.setW W) := { h with }

theorem setRegs (h : InProgress v M L k s) (r : Oct Slot) : InProgress v M L k (s.setRegs r) := { h with }

theorem setT (h : InProgress v M L k s) (c : BitVec 7) : InProgress v M L k (s.setT c) := { h with }

theorem setRoom (h : InProgress v M L k s) (x : Bool) : InProgress v M L k (s.setRoom x) := { h with }

theorem setTerminal (h : InProgress v M L k s) (x : Bool) : InProgress v M L k (s.setTerminal x) := { h with }

theorem setSynthPending (h : InProgress v M L k s) (x : Bool) : InProgress v M L k (s.setSynthPending x) := { h with }

end InProgress

/-! ### From a block in the buffer to the next block -/

/-- The schedule and the rounds of a block: its compression is ready to be added, and the flags are kept. -/
theorem Built.run (h : Built v M L k s) :
    ∃ t, BusyRun (1 + (v.nr - 16) + (1 + v.nr)) s t ∧ Folding v M L k t ∧
      t.terminal = s.terminal ∧ t.synthPending = s.synthPending := by
  obtain rfl := h.variant
  obtain ⟨W, hschedule, hW⟩ := schedule_run h.presented h.phase
  have hlen : (scheduleOf s.variant (byteAt s.blk)).length = s.variant.nr := by
    have hnr := s.variant.nr_gt
    rw [scheduleOf, length_extendBy, length_nativeWords]
    omega
  obtain ⟨x, hrounds, hx⟩ := rounds_run (s := ((s.setW W).setT (BitVec.ofNat 7 s.variant.nr)).setPhase .rndSeed)
    h.presented rfl (fun i hi => hW i (hlen.symm ▸ hi))
  refine ⟨_, hschedule.trans hrounds,
    ⟨(((((h.toInProgress.setW W).setT _).setPhase .rndSeed).setRegs x).setT _).setPhase .accAdd, rfl, ?_⟩, rfl, rfl⟩
  rw [stateWords_accumulated]
  exact (congrArg (addWords s.variant (stateWords s.variant s.H)) hx).trans
    ((compress_congr _ h.block).trans (congrArg (compress s.variant · _) h.state))

/-- ACC.ADD after the terminal block. -/
theorem Folding.last (h : Folding v M L k s) (ht : s.terminal = true) (hlast : numBlocks v L = k + 1) :
    ∃ t, BusyRun 1 s t ∧ Folded v M L t := by
  have hstep : step s = .next ((s.setH (accumulated v s)).setPhase .serOut) := by
    rw [step_at h.presented h.phase (by decide), h.variant]
    exact accAdd_terminal ht
  exact ⟨_, .one (busy_of_phase h.phase (by decide)) hstep, h.presented, h.variant, rfl, hlast ▸ h.folded⟩

/-- ACC.ADD after a block that is not terminal. -/
theorem Folding.more (h : Folding v M L k s) (ht : s.terminal = false) (hfits : k * v.bs + v.bs < 2 ^ 64) :
    ∃ t, BusyRun 1 s t ∧ InProgress v M L (k + 1) t ∧ t.terminal = false ∧ t.synthPending = s.synthPending ∧
      t.phase = if s.synthPending then .segSynth else .segFill := by
  have hcursor : s.processed.toNat + v.bs = k * v.bs + v.bs := congrArg (· + v.bs) h.cursor
  have hstep : step s = .next (((s.setH (accumulated v s)).setProcessed (BitVec.ofNat 64 (k * v.bs + v.bs))).setPhase
      (if s.synthPending then .segSynth else .segFill)) := by
    rw [step_at h.presented h.phase (by decide), h.variant, ← hcursor]
    exact accAdd_more ht (hcursor ▸ hfits)
  refine ⟨_, .one (busy_of_phase h.phase (by decide)) hstep,
    ⟨h.presented, h.variant, h.length, h.msg, ?_, h.folded⟩, ht, rfl, rfl⟩
  rw [Nat.succ_mul]
  exact (BitVec.toNat_ofNat _ _).trans (Nat.mod_eq_of_lt hfits)

/-! ### One block -/

theorem RawDue.fill (h : RawDue v M L k s) (hM : ∀ i < L, (M.read i).isSome = true) :
    ∃ t, BusyRun 1 s t ∧ Filled v M L k t := by
  obtain ⟨hterm, hpend, _⟩ := h.due
  have hlength := h.length
  have hstep : step s = .next ((s.setBlk (filledBlock v s)).setPhase .segRoom) := by
    rw [step_at h.presented h.phase (by decide), h.variant]
    exact segFill_available fun i _ hi => h.msg ▸ hM _ (hlength ▸ hi)
  have hblock := startsPadBlock_filledBlock h.cursor
  rw [hlength, h.messageOf] at hblock
  generalize filledBlock v s = b at hstep hblock
  exact ⟨_, .one (busy_of_phase h.phase (by decide)) hstep, (h.toInProgress.setBlk b).setPhase .segRoom, rfl, hterm,
    hpend, hlength ▸ rawDueAt_of_due h.cursor h.due, hblock⟩

/-- What SEG.ROOM makes of a raw block: the last block, the last raw block, or a block that raw blocks follow. -/
theorem Filled.room (h : Filled v M L k s) (hL : L < 2 ^ 61) :
    ∃ t, BusyRun 1 s t ∧ Built v M L k t ∧
      (t.terminal = true ∧ numBlocks v L = k + 1 ∨
        t.terminal = false ∧ t.synthPending = true ∧ L ≤ k * v.bs + v.bs ∧ k * v.bs + v.bs < L + v.lf + 1 ∨
        t.terminal = false ∧ t.synthPending = false ∧ k * v.bs + v.bs < L) := by
  have hbusy := busy_of_phase h.phase (by decide)
  have hstep : step s = segRoom v s :=
    (step_at h.presented h.phase (by decide)).trans (congrArg (segRoom · s) h.variant)
  have hcases := segRoom_cases v s
  rw [← hstep, h.cursor, h.length] at hcases
  rcases hcases with ⟨hroom, hs⟩ | ⟨hended, hno, hs⟩ | ⟨hmore, hs⟩
  · have hlast := numBlocks_of_room h.due hroom
    have hlength := h.length
    have hblock {i : Nat} (hi : i < v.bs) : byteAt (writeTrailer v s.L s.blk) i = padBlock v (messageByte M) L k i := by
      have hb := startsPadBlock.with_trailer (hlength.symm ▸ h.block) (hlength.symm ▸ hL) (hlength.symm ▸ hlast) hi
      rwa [hlength] at hb
    generalize writeTrailer v s.L s.blk = b at hs hblock
    exact ⟨_, .one hbusy hs, ⟨(((h.toInProgress.setRoom true).setPhase .expLoad).setBlk b).setTerminal true, rfl,
      fun _ => hblock⟩, .inl ⟨rfl, hlast⟩⟩
  · exact ⟨_, .one hbusy hs, ⟨((h.toInProgress.setRoom false).setPhase .expLoad).setSynthPending true, rfl,
      fun _ => h.block.of_no_room hno⟩, .inr (.inl ⟨h.terminal, rfl, hended, hno⟩)⟩
  · exact ⟨_, .one hbusy hs, ⟨(h.toInProgress.setRoom false).setPhase .expLoad, rfl,
      fun _ => h.block.of_no_room (by omega)⟩, .inr (.inr ⟨h.terminal, h.synthPending, hmore⟩)⟩

/-- A raw block is built, compressed and accumulated in the steps of R140; then the blocks have ended, or a synthetic or
another raw block is due. -/
theorem RawDue.run (h : RawDue v M L k s) (hL : L < 2 ^ 61) (hM : ∀ i < L, (M.read i).isSome = true) :
    ∃ t, BusyRun (rawBlockSteps v) s t ∧
      (numBlocks v L = k + 1 ∧ Folded v M L t ∨ SynthDue v M L (k + 1) t ∨
        RawDue v M L (k + 1) t ∧ (k + 1) * v.bs < L) := by
  have hbs := v.bs_le
  have hsteps : rawBlockSteps v = 1 + (1 + ((1 + (v.nr - 16) + (1 + v.nr)) + 1)) := by
    unfold rawBlockSteps
    omega
  obtain ⟨t1, hfill, h1⟩ := h.fill hM
  obtain ⟨t2, hroom, h2, hcases⟩ := h1.room hL
  obtain ⟨t3, hcompress, h3, hterm, hpend⟩ := h2.run
  rw [← hterm, ← hpend] at hcases
  rcases hcases with ⟨ht, hlast⟩ | ⟨ht, hp, hended, hno⟩ | ⟨ht, hp, hmore⟩
  · obtain ⟨t, hfold, hfolded⟩ := h3.last ht hlast
    exact ⟨t, hsteps ▸ hfill.trans (hroom.trans (hcompress.trans hfold)), .inl ⟨hlast, hfolded⟩⟩
  · have hlf := v.lf_lt
    obtain ⟨t, hfold, hprog, _, _, hphase⟩ := h3.more ht (by omega)
    rw [hp] at hphase
    refine ⟨t, hsteps ▸ hfill.trans (hroom.trans (hcompress.trans hfold)), .inr (.inl ⟨hprog, hphase, ?_, ?_⟩)⟩
    · rwa [Nat.succ_mul]
    · rw [Nat.succ_mul]
      omega
  · obtain ⟨t, hfold, hprog, hterm', hpend', hphase⟩ := h3.more ht (by omega)
    rw [hp] at hphase hpend'
    rw [← Nat.succ_mul] at hmore
    refine ⟨t, hsteps ▸ hfill.trans (hroom.trans (hcompress.trans hfold)),
      .inr (.inr ⟨⟨hprog, hphase, hterm', hpend', .inl ?_⟩, hmore⟩)⟩
    rwa [hprog.cursor, hprog.length]

/-- The synthetic block is the last one, and takes a step fewer. -/
theorem SynthDue.run (h : SynthDue v M L k s) (hL : L < 2 ^ 61) :
    ∃ t, BusyRun (rawBlockSteps v - 1) s t ∧ numBlocks v L = k + 1 ∧ Folded v M L t := by
  have hlength := h.length
  have hlast := numBlocks_of_synth h.ended h.noRoom
  have hsteps : rawBlockSteps v - 1 = 1 + ((1 + (v.nr - 16) + (1 + v.nr)) + 1) := by
    unfold rawBlockSteps
    omega
  have hstep : step s =
      .next ((((s.setBlk (paddingBlock v s)).setTerminal true).setSynthPending false).setPhase .expLoad) := by
    rw [step_at h.presented h.phase (by decide), h.variant]
    exact segSynth_runs v s
  have hblock {i : Nat} (hi : i < v.bs) : byteAt (paddingBlock v s) i = padBlock v (messageByte M) L k i := by
    have hb := (startsPadBlock_synthBlock h.cursor (hlength.symm ▸ h.ended) (hlength.symm ▸ h.noRoom)).with_trailer
      (hlength.symm ▸ hL) (hlength.symm ▸ hlast) hi
    rwa [hlength, h.messageOf] at hb
  generalize paddingBlock v s = b at hstep hblock
  have hbuilt : Built v M L k ((((s.setBlk b).setTerminal true).setSynthPending false).setPhase .expLoad) :=
    ⟨(((h.toInProgress.setBlk b).setTerminal true).setSynthPending false).setPhase .expLoad, rfl, fun _ => hblock⟩
  obtain ⟨t1, hcompress, h1, hterm, _⟩ := hbuilt.run
  obtain ⟨t, hfold, hfolded⟩ := h1.last hterm hlast
  refine ⟨t, ?_, hlast, hfolded⟩
  rw [hsteps]
  exact (BusyRun.one (busy_of_phase h.phase (by decide)) hstep).trans (hcompress.trans hfold)

/-! ### All the blocks -/

/-- The raw blocks are those with an index below `Nraw`. -/
theorem rawDueAt_iff (v : Variant) (L k : Nat) : rawDueAt v L k ↔ k < numRawBlocks v L := by
  cases v <;> simp only [rawDueAt, numRawBlocks, Variant.bs] <;> omega

theorem numRawBlocks_le_numBlocks (v : Variant) (L : Nat) : numRawBlocks v L ≤ numBlocks v L := by
  rw [numBlocks_eq_numRawBlocks]
  split <;> omega

/-- After the last raw block none is due. -/
theorem numRawBlocks_of_ended (h : L ≤ (k + 1) * v.bs) : numRawBlocks v L ≤ k + 1 := by
  refine Nat.not_lt.1 fun hlt => ?_
  rcases (rawDueAt_iff v L (k + 1)).2 hlt with hdue | ⟨h0, _⟩
  · exact Nat.not_lt.2 h hdue
  · exact Nat.succ_ne_zero k h0

/-- With `n` raw blocks to go, the computation ends after their steps and those of the synthetic block, if any. -/
theorem RawDue.run_all (hL : L < 2 ^ 61) (hM : ∀ i < L, (M.read i).isSome = true) (n : Nat) {k : Nat} {s : State}
    (h : RawDue v M L k s) (hn : numRawBlocks v L = k + n) :
    ∃ t, BusyRun (n * rawBlockSteps v + (numBlocks v L - numRawBlocks v L) * (rawBlockSteps v - 1)) s t ∧
      Folded v M L t := by
  have hdue := (rawDueAt_iff v L k).1 (h.length ▸ rawDueAt_of_due h.cursor h.due)
  have hle := numRawBlocks_le_numBlocks v L
  induction n generalizing k s with
  | zero => omega
  | succ n ih =>
    obtain ⟨t, hrun, hcases⟩ := h.run hL hM
    rcases hcases with ⟨hlast, hfolded⟩ | hsynth | ⟨hraw, hmore⟩
    · obtain rfl : n = 0 := by omega
      have hno : numBlocks v L - numRawBlocks v L = 0 := by omega
      refine ⟨t, ?_, hfolded⟩
      rwa [hno, Nat.zero_mul, Nat.add_zero, Nat.one_mul]
    · have hended := numRawBlocks_of_ended hsynth.ended
      obtain ⟨u, hrest, hlast, hfolded⟩ := hsynth.run hL
      obtain rfl : n = 0 := by omega
      have hone : numBlocks v L - numRawBlocks v L = 1 := by omega
      refine ⟨u, ?_, hfolded⟩
      rw [hone, Nat.one_mul, Nat.one_mul]
      exact hrun.trans hrest
    · obtain ⟨u, hrest, hfolded⟩ := ih hraw (by omega) ((rawDueAt_iff v L (k + 1)).1 (.inl hmore))
      refine ⟨u, ?_, hfolded⟩
      rw [Nat.succ_mul, Nat.add_comm (n * rawBlockSteps v), Nat.add_assoc]
      exact hrun.trans hrest

/-- SER.OUT after the last block: the host reads the digest. -/
theorem Folded.serOut (h : Folded v M L s) :
    ∃ t, BusyRun 1 s t ∧ doneFlag t = true ∧
      ∀ i < v.ds, hostReadDigest t i = some (digestOf v (messageByte M) L i) := by
  have hstep : step s = .next ((s.setDigestOut (serialized v s)).setPhase .done) := by
    rw [step_at h.presented h.phase (by decide), h.variant]
    exact serOut_runs v s
  refine ⟨_, .one (busy_of_phase h.phase (by decide)) hstep, rfl, fun i hi => ?_⟩
  have hword : i / v.wb < 8 := Nat.div_lt_of_lt_mul (v.ds_words.symm ▸ hi)
  rw [hostReadDigest_done rfl, State.setPhase_variant, State.setDigestOut_variant, h.variant, if_pos hi]
  refine (read_serOut v s i).trans ((if_pos hi).trans ?_)
  rw [digestByte_eq, ← stateWords_getD v s.H hword, h.state]
  rfl

end Computation

/-! ### From the command to the digest -/

/-- After the acceptance INIT starts the computation of the command's clamped length. -/
theorem init_run {s : State} {w : BitVec 65} (hn : s.presented = none) (hp : s.phase = .init) (hw : s.cmd = w) :
    ∃ t, BusyRun 1 s t ∧ RawDue (cmdVariant w) s.msg (effectiveLength w) 0 t := by
  subst hw
  have hL : (clampLength Config.maxLen (cmdLength s.cmd)).toNat = effectiveLength s.cmd :=
    toNat_clampLength Config.maxLen (cmdLength s.cmd)
  have hstep := (step_init hn hp).trans (initCompute_runs (cmdVariant s.cmd) s)
  refine ⟨_, .one (busy_of_phase hp (by decide)) hstep,
    ⟨hn, rfl, hL, rfl, (Nat.zero_mul _).symm, stateWords_stateSlots _ _⟩, rfl, rfl, rfl, ?_⟩
  exact (Nat.eq_zero_or_pos _).symm.imp id fun h0 => ⟨rfl, h0⟩

/-- A command that has been accepted leads to the digest in the steps of R140. -/
theorem computation_run {s : State} {w : BitVec 65} (hn : s.presented = none) (hp : s.phase = .init) (hw : s.cmd = w)
    (hM : messageAvailable s (effectiveLength w)) :
    ∃ t, BusyRun (computationSteps (cmdVariant w) (effectiveLength w)) s t ∧ doneFlag t = true ∧
      ∀ i < (cmdVariant w).ds,
        hostReadDigest t i = some (digestOf (cmdVariant w) (messageOf s) (effectiveLength w) i) := by
  have hL : effectiveLength w < 2 ^ 61 := Nat.lt_of_le_of_lt (Nat.min_le_right _ _) maxLenInRange.2
  obtain ⟨t1, hinit, h1⟩ := init_run hn hp hw
  obtain ⟨t2, hblocks, h2⟩ := h1.run_all hL hM (numRawBlocks (cmdVariant w) (effectiveLength w)) (Nat.zero_add _).symm
  obtain ⟨t, hout, hdone, hdigest⟩ := h2.serOut
  refine ⟨t, ?_, hdone, hdigest⟩
  rw [computationSteps, Nat.add_assoc 1]
  exact (hinit.trans hblocks).trans hout

/-- Settles O45: after the acceptance the computation is a run through busy states, block by block, and the count of its
steps is that of R140. -/
theorem computationReachesDigest : Obligations.ComputationReachesDigest := by
  intro s w hp hw hM
  have hbusy := (busyFlag_false_iff s).2 hp
  have haccept : step s = .next (((s.setCmd w).setPhase .init).setPresented none) := by
    rw [step_presented hw, acceptCommand_runs hbusy, cmdWord_fields]
  obtain ⟨t, hrun, hdone, hdigest⟩ :=
    computation_run (s := ((s.setCmd w).setPhase .init).setPresented none) (w := w) rfl rfl rfl hM
  refine ⟨⟨t, ?_, hdone, hdigest⟩, fun n hpos hlt => ?_⟩
  · rw [Nat.add_comm]
    exact (run_of_step (M := core) _ haccept).trans hrun.run
  · obtain ⟨m, rfl⟩ := Nat.exists_eq_add_one.2 hpos
    obtain ⟨u, hu, hb⟩ := hrun.busy m (by omega)
    exact ⟨u, (run_of_step (M := core) m haccept).trans hu, hb⟩

end Sys2Proof.Machine
